-- ==== Sys2Proof/Word.lean ====
section
/-! DEFINITION. The word types of the block and the three values every rule names (00_scope.md R6, R7, R11). -/

namespace Sys2Proof

/-- A raw Q16.16 word: 32 bits, two's complement, value / 65536 (R6, R11). -/
abbrev Word := BitVec 32

/-- The 4-bit op code of a command (30_encoding.md R60). -/
abbrev OpCode := BitVec 4

/-- A command written as one 68-bit word (30_encoding.md R60): op in bits 67:64, a in 63:32, b in 31:0. -/
abbrev CommandWord := BitVec 68

/-- `ONE`, the raw word of 1.0 (R7). -/
abbrev ONE : Int := 65536

/-- `MAXV`, the maximum representable value, 0x7FFFFFFF (R7). -/
abbrev MAXV : Int := 2147483647

/-- `MINV`, the most negative representable value, 0x80000000 (R7). -/
abbrev MINV : Int := -2147483648

end Sys2Proof
end

