-- ==== Sys2Proof/Syntax.lean ====
section
/-! DEFINITION. The command set as syntax (30_encoding.md R61): one constructor per row of spec/opcode_table.json, the raw
command a host offers, which is what the block holds as `CMD` (10_state.md R28), and what a host drives on the ports. -/

namespace Sys2Proof

/-- The seven operations of R61 with the operands each uses. A one-operand operation takes field `a` (R62). -/
inductive Instr where
  | mul (a b : Word)
  | recip (a : Word)
  | exp (a : Word)
  | exps (a : Word)
  | log (a : Word)
  | log2 (a : Word)
  | log10 (a : Word)
  deriving DecidableEq, Repr

/-- A command as the ports carry it: `cmd_op`, `cmd_a`, `cmd_b` (10_state.md R20), any bits at all. -/
structure Command where
  op : OpCode
  a : Word
  b : Word
  deriving DecidableEq, Repr

/-- What the host drives on the input ports of 10_state.md R20 at one rising edge of `clk`. -/
structure Machine.Edge where
  /-- `rst`, synchronous reset, active high. -/
  rst : Bool
  /-- `cmd_valid`: the host offers a command. -/
  cmdValid : Bool
  /-- `cmd_op`. -/
  cmdOp : OpCode
  /-- `cmd_a`. -/
  cmdA : Word
  /-- `cmd_b`. -/
  cmdB : Word
  deriving DecidableEq, Repr, Inhabited

end Sys2Proof
end

