-- ==== Sys2Proof/WellFormed.lean ====
section
/-! DEFINITION. Which terms are well formed. Every operand word is legal for every operation (30_encoding.md R64), so the
checks that can refuse are on the raw command: its op code is one of the seven, its ignored field is canonical, and, for
the host's side of the contract, EXP gets no negative operand (41_exponential.md R102). -/

namespace Sys2Proof

/-- An instruction as syntax is always well formed: "every 32-bit operand word is accepted by every defined op code"
(R64), and the types already fix the widths. -/
def Instr.wf : Instr → Bool
  | .mul _ _ => true
  | .recip _ => true
  | .exp _ => true
  | .exps _ => true
  | .log _ => true
  | .log2 _ => true
  | .log10 _ => true

/-- The op code is one of the seven of R61; 0x7 to 0xF are reserved (R64). -/
def Command.opDefined (c : Command) : Bool := decide (c.op.toNat < 7)

/-- The canonical encoding (R62): field `b` is zero unless the operation is MUL. -/
def Command.canonical (c : Command) : Bool := c.op == 0 || c.b == 0

/-- The document's precondition (41_exponential.md R102): EXP needs a non-negative operand. Nothing else has one. -/
def Instr.meetsPrecondition : Instr → Bool
  | .mul _ _ => true
  | .recip _ => true
  | .exp a => decide (0 ≤ a.toInt)
  | .exps _ => true
  | .log _ => true
  | .log2 _ => true
  | .log10 _ => true

end Sys2Proof
end

