-- ==== Sys2Proof/Decode.lean ====
section
/-! DEFINITION. Decoding and encoding of commands (30_encoding.md R60 to R64, R69). Decoding is total: op codes 0x7 to 0xF
are rejected by name. -/

namespace Sys2Proof

/-- Why a command decodes to no operation. -/
inductive DecodeError where
  /-- The op code is one of 0x7 to 0xF (R64). -/
  | reservedOp (op : OpCode)
  deriving DecidableEq, Repr

/-- The fields of a 68-bit command word (R60). -/
def commandOfWord (w : CommandWord) : Command where
  op := w.extractLsb' 64 4
  a := w.extractLsb' 32 32
  b := w.extractLsb' 0 32

/-- The 68-bit word of a command (R60): op, then a, then b, from the most significant bit down. -/
def wordOfCommand (c : Command) : CommandWord := c.op ++ (c.a ++ c.b)

/-- The op-code map (R61). Field `b` is read by MUL only (R62). -/
def decodeCommand (c : Command) : Except DecodeError Instr :=
  match c.op.toNat with
  | 0x0 => .ok (.mul c.a c.b)
  | 0x1 => .ok (.recip c.a)
  | 0x2 => .ok (.exp c.a)
  | 0x3 => .ok (.exps c.a)
  | 0x4 => .ok (.log c.a)
  | 0x5 => .ok (.log2 c.a)
  | 0x6 => .ok (.log10 c.a)
  | _ => .error (.reservedOp c.op)

/-- Decoding of a command word. -/
def decode (w : CommandWord) : Except DecodeError Instr := decodeCommand (commandOfWord w)

/-- The canonical command of an instruction (R61, R62): field `b` is zero for a one-operand operation. -/
def encodeCommand : Instr → Command
  | .mul a b => ⟨0x0, a, b⟩
  | .recip a => ⟨0x1, a, 0⟩
  | .exp a => ⟨0x2, a, 0⟩
  | .exps a => ⟨0x3, a, 0⟩
  | .log a => ⟨0x4, a, 0⟩
  | .log2 a => ⟨0x5, a, 0⟩
  | .log10 a => ⟨0x6, a, 0⟩

/-- The canonical command that stands for a command (R62): an ignored field `b` cleared. A reserved command stands for
itself. -/
def Command.canonicalForm (c : Command) : Command :=
  match decodeCommand c with
  | .ok i => encodeCommand i
  | .error _ => c

/-- The canonical command word of an instruction. -/
def encode (i : Instr) : CommandWord := wordOfCommand (encodeCommand i)

/-- A row of spec/opcode_table.json (R69): a command word `w` selects the row when `w AND mask = pattern`. -/
structure OpcodeRow where
  mnemonic : String
  pattern : CommandWord
  mask : CommandWord
  deriving DecidableEq, Repr

/-- spec/opcode_table.json, row by row. -/
def opcodeTable : List OpcodeRow :=
  [⟨"MUL", 0x00000000000000000, 0xF0000000000000000⟩,
   ⟨"RECIP", 0x10000000000000000, 0xF0000000000000000⟩,
   ⟨"EXP", 0x20000000000000000, 0xF0000000000000000⟩,
   ⟨"EXPS", 0x30000000000000000, 0xF0000000000000000⟩,
   ⟨"LOG", 0x40000000000000000, 0xF0000000000000000⟩,
   ⟨"LOG2", 0x50000000000000000, 0xF0000000000000000⟩,
   ⟨"LOG10", 0x60000000000000000, 0xF0000000000000000⟩]

/-- The mnemonic of an instruction (R61). -/
def mnemonic : Instr → String
  | .mul _ _ => "MUL"
  | .recip _ => "RECIP"
  | .exp _ => "EXP"
  | .exps _ => "EXPS"
  | .log _ => "LOG"
  | .log2 _ => "LOG2"
  | .log10 _ => "LOG10"

/-- The command whose bits are the low `nbits` bits of `w`, numbered as spec/opcode_table.json numbers them. A command
has the bits 67 down to 0 and no others (R60; log entry 15). -/
def commandOfTableWord (nbits w : Nat) : Command := commandOfWord (BitVec.ofNat 68 (w % 2 ^ nbits))

/-- What the decoder reads from a table word (host interface). -/
def decodeTableWord (nbits w : Nat) : Option Instr :=
  match decodeCommand (commandOfTableWord nbits w) with
  | .ok i => some i
  | .error _ => none

end Sys2Proof
end

