-- ==== Sys2Proof/Machine/Arith.lean ====
section
/-! DEFINITION. The integer primitives of 00_scope.md R12, on mathematical integers. -/

namespace Sys2Proof.Machine

/-- `s32(v)` (R12): keep the low 32 bits and read them as two's complement. -/
def s32 (v : Int) : Int := (BitVec.ofInt 32 v).toInt

/-- The word written by `RESULT <- v` (R13): the low 32 bits of `v`. -/
def toWord (v : Int) : Word := BitVec.ofInt 32 v

/-- `v >> n` (R12): arithmetic shift right, floor(v / 2^n), for negative v too. -/
def shr (v : Int) (n : Nat) : Int := v >>> n

/-- `v << n` (R12): v · 2^n, no bits lost. -/
def shl (v : Int) (n : Nat) : Int := v <<< n

/-- `floor_div(p, q)` for q > 0 (R12). -/
def floorDiv (p q : Int) : Int := p / q

end Sys2Proof.Machine
end

