-- ==== Sys2Proof/Config.lean ====
section
/-! DEFINITION. The build-time configuration `cfg` (00_scope.md R8 to R10, 93_implementation_defined.md U10), the
contents of the two read-only tables and of the constants (20_memory.md R43 to R46), and the free values. -/

namespace Sys2Proof

/-- `REFINE` (R8): `newton` is the spec's `NEWTON`, `minimal` its `NONE`. -/
inductive Refine where
  | newton
  | minimal
  deriving DecidableEq, Repr

/-- The configuration: the three flags of R8 with the tables and constants of 20_memory.md, fixed when an instance is
built. The lengths of the tables are those of R40. All words are signed (40_fixed_point_core.md R90 (a)). -/
structure Cfg where
  /-- `USE_HW_DIV`: quotients use an integer divider (true) or the division-free reciprocal (false). -/
  useHwDiv : Bool
  /-- `REFINE`: whether LOG ends with a Newton correction. -/
  refine : Refine
  /-- `INTERP`: whether EXPS interpolates in its table. -/
  interp : Bool
  /-- `EXP_TABLE`, entry i stands for e^(2^-i) (R43). -/
  expTable : Vector Word 12
  /-- `INV_EXP_TABLE`, entry j stands for e^(-j/8) (R44). -/
  invExpTable : Vector Word 81
  /-- `E_Q16` (R45). -/
  eQ16 : Word
  /-- `LN2_Q16` (R46). -/
  ln2Q16 : Word
  /-- `INV_LN2_Q16` (R45). -/
  invLn2Q16 : Word
  /-- `INV_LN10_Q16` (R45). -/
  invLn10Q16 : Word
  deriving DecidableEq, Repr

namespace Config

/-- The free word (log entries 4 to 6): what the n-th draw gives for a command whose result the spec calls "unspecified".
None of the free values has a body, so no proof can see what they are. -/
opaque freeWord (cfg : Cfg) (c : Command) (n : Nat) : Word

/-- The free latency (log entry 18): how many edges pass between accept and the completing edge, for a command accepted at
the n-th draw. It may differ from one command, configuration and draw to another: "at least 1 and finite, and is
otherwise not specified", and it "may depend on the operands" (70_reset_and_hazards.md R166). -/
opaque freeLatency (cfg : Cfg) (c : Command) (n : Nat) : Nat

/-- The host's choice (log entry 8): what a host that remembers `memory` drives on the input ports while it sees
`cmd_ready` and the shown result, if `rsp_valid` is 1 (10_state.md R29). -/
opaque hostDrives (memory : Nat) (ready : Bool) (shown : Option Word) : Machine.Edge

/-- What such a host remembers after the edge (log entry 8). A natural number can code everything it has seen, so its
program is any finite or infinite sequence, possibly depending on earlier results (10_state.md R23). -/
opaque hostRemembers (memory : Nat) (ready : Bool) (shown : Option Word) : Nat

/-- `EXP_TABLE` as listed in R43. PRESUMED (the spec supplies the entries from mathematics, K1; log entry 2). -/
def expTableDefault : Vector Word 12 :=
  #v[178145, 108051, 84150, 74262, 69763, 67616, 66568, 66050, 65793, 65664, 65600, 65568]

/-- The rows of R44, ten entries a row. PRESUMED (K2; log entry 2). -/
def invExpRows : List Word :=
  [65536, 57835, 51039, 45042, 39750, 35079, 30957, 27319, 24109, 21276] ++
  [18776, 16570, 14623, 12905, 11388, 10050, 8869, 7827, 6907, 6096] ++
  [5380, 4747, 4190, 3697, 3263, 2879, 2541, 2243, 1979, 1746] ++
  [1541, 1360, 1200, 1059, 935, 825, 728, 642, 567, 500] ++
  [442, 390, 344, 303, 268, 236, 209, 184, 162, 143] ++
  [127, 112, 99, 87, 77, 68, 60, 53, 47, 41] ++
  [36, 32, 28, 25, 22, 19, 17, 15, 13, 12] ++
  [10, 9, 8, 7, 6, 6, 5, 4, 4, 3] ++
  [3]

/-- `INV_EXP_TABLE` of R44. -/
def invExpTableDefault : Vector Word 81 := ⟨invExpRows.toArray, rfl⟩

/-- A configuration with the given flags and the tables and constants of R43 to R46. -/
def withFlags (useHwDiv : Bool) (refine : Refine) (interp : Bool) : Cfg where
  useHwDiv := useHwDiv
  refine := refine
  interp := interp
  expTable := expTableDefault
  invExpTable := invExpTableDefault
  eQ16 := 178145
  ln2Q16 := 45426
  invLn2Q16 := 94548
  invLn10Q16 := 28480

/-- `CFG_A` (R9): division-free, Newton, interpolating. -/
def cfgA : Cfg := withFlags false .newton true

/-- `CFG_B` (R9): hardware division, Newton, interpolating. -/
def cfgB : Cfg := withFlags true .newton true

/-- `CFG_C` (R9): division-free, no refinement, no interpolation. -/
def cfgC : Cfg := withFlags false .minimal false

end Config

end Sys2Proof
end

