-- ==== Sys2Proof/Machine/State.lean ====
section
/-! DEFINITION. The state of the block (10_state.md R21, R28, R29) with the model's own parts: the configuration it was
built with, how far the command in flight is from completing, the host beside the block, and the counter of free values. -/

namespace Sys2Proof.Machine

/-- The state. -/
structure State where
  /-- The build-time configuration, a parameter of the machine that no step changes (00_scope.md R8; log entry 1). -/
  cfg : Cfg
  /-- `BUSY` and, while it is 1, the accepted command `CMD` (R28, R29). -/
  busy : Option Command
  /-- `RVALID` and, while it is 1, `RESULT` (R29, R33; log entry 7). -/
  result : Option Word
  /-- How many edges pass before the completing edge of the command in flight (the model's own; log entry 18). -/
  wait : Nat
  /-- What the host drives at the coming rising edges, the next one first, before it goes on by its own program (the
  model's own; log entry 8). -/
  edges : List Edge
  /-- What the host remembers, which with the outputs decides what it drives after the list (log entry 8). -/
  host : Nat
  /-- How many free values have been drawn (the model's own; log entry 6). -/
  draws : Nat
  deriving DecidableEq, Repr

/-- The reasons the machine stops with a fault: none. "The set of exception causes is empty" (60_exceptions.md R140), so
nothing raises one. -/
inductive Fault : Type
  deriving DecidableEq, Repr

/-- The reasons the model gives a command no meaning. -/
inductive Refusal where
  /-- An instruction that has no meaning yet, raised by `exec` only, and safe. No arm raises it: all seven have one. -/
  | notModelled (mnemonic : String)
  deriving DecidableEq, Repr

/-- The state after a reset edge (R32, R35): no command in flight and no valid result. The configuration (CFG_A), the
empty list of edges and the zeros of the model's own fields are DESIGN CHOICES (log entries 1, 6, 8 and 18). -/
def State.reset : State where
  cfg := Config.cfgA
  busy := none
  result := none
  wait := 0
  edges := []
  host := 0
  draws := 0

end Sys2Proof.Machine
end

