-- ==== Sys2Proof/Machine/Flags.lean ====
section
/-! DEFINITION. The block has no flags, condition codes or status bits (10_state.md R24). The outputs of
the handshake are functions of the state (R33) and say nothing of the value computed. -/

namespace Sys2Proof.Machine

/-- `cmd_ready` (R33): NOT `BUSY`. -/
def cmdReady (s : State) : Bool := s.busy.isNone

/-- `rsp_valid` (R33): `RVALID`. -/
def rspValid (s : State) : Bool := s.result.isSome

/-- `rsp_result` (R33): the result while `rsp_valid` is 1. While it is 0 the port carries any value and no read of it is
offered (93_implementation_defined.md U3; log entry 7). -/
def rspResult (s : State) : Option Word := s.result

end Sys2Proof.Machine
end

