-- ==== Sys2Proof/Machine/Ops.lean ====
section
/-! DEFINITION. The shared operations over the state: the three abstract steps of 10_state.md R30 to R32, reading the two
tables, drawing a free value, and taking the next clock edge. There is no trap entry or return to share
(60_exceptions.md R144, R145). -/

namespace Sys2Proof.Machine

/-- Step ACCEPT (R30): `busy` holds the command, `result` is gone. Its latency is drawn here (log entry 18). -/
def acceptCommand (c : Command) (s : State) : State :=
  { s with busy := some c, result := none, wait := Config.freeLatency s.cfg c s.draws, draws := s.draws + 1 }

/-- An edge of the latency of the command in flight: nothing of the block's own state changes (R31). -/
def waitOneEdge (s : State) : State := { s with wait := s.wait - 1 }

/-- Step COMPLETE (R31): `RESULT` is written, `RVALID` set and `BUSY` cleared, all at once. -/
def completeWith (w : Word) (s : State) : State := { s with busy := none, result := some w }

/-- Step RESET (R32): no command in flight, no valid result. An operation in progress is abandoned (R163). -/
def applyReset (s : State) : State := { s with busy := none, result := none }

/-- The free word drawn next for command `c` (log entries 4 to 6). -/
def nextFreeWord (c : Command) (s : State) : Word := Config.freeWord s.cfg c s.draws

/-- COMPLETE of command `c` with an unspecified result (R64, 41_exponential.md R103): any word, and nothing else is
affected. -/
def completeUnspecified (c : Command) (s : State) : State :=
  { completeWith (nextFreeWord c s) s with draws := s.draws + 1 }

/-- An edge at which the host drives nothing. -/
def quietEdge : Edge := { rst := false, cmdValid := false, cmdOp := 0, cmdA := 0, cmdB := 0 }

/-- What the host drives at the next rising edge: the head of the list, and once the list is used up what the host
chooses from its memory and the outputs it reads (R23, R29; log entry 8). -/
def nextEdge (s : State) : Edge :=
  match s.edges with
  | [] => Config.hostDrives s.host (cmdReady s) (rspResult s)
  | e :: _ => e

/-- The state with the next edge taken: off the list, or from the host, which remembers what it read (log entry 8). -/
def popEdge (s : State) : State :=
  match s.edges with
  | [] => { s with host := Config.hostRemembers s.host (cmdReady s) (rspResult s) }
  | _ :: rest => { s with edges := rest }

/-- The command an edge offers (R20, R30). -/
def Edge.command (e : Edge) : Command := ⟨e.cmdOp, e.cmdA, e.cmdB⟩

/-- The state in which command `c` has been accepted and completes at the very next edge (log entry 9). -/
def presentCommand (c : Command) (s : State) : State :=
  { s with busy := some c, result := none, wait := 0, edges := quietEdge :: s.edges }

/-- Read of `EXP_TABLE[i]` (20_memory.md R40, R43). -/
def expTableRead (cfg : Cfg) (i : Fin 12) : Int := (cfg.expTable[i]).toInt

/-- Read of `INV_EXP_TABLE[j]` (20_memory.md R40, R44). -/
def invExpTableRead (cfg : Cfg) (j : Fin 81) : Int := (cfg.invExpTable[j]).toInt

/-- `while v >= limit: v = v >> 1; k = k + 1`, at most the given number of rounds (40_fixed_point_core.md R84,
42_logarithm.md R122; log entry 11). -/
def halveWhile (limit : Int) : Nat → Int → Int → Int × Int
  | 0, v, k => (v, k)
  | n + 1, v, k => if limit ≤ v then halveWhile limit n (shr v 1) (k + 1) else (v, k)

/-- `while v < limit: v = v << 1; k = k - 1`, at most the given number of rounds (R84, R122; log entry 11). -/
def doubleWhile (limit : Int) : Nat → Int → Int → Int × Int
  | 0, v, k => (v, k)
  | n + 1, v, k => if v < limit then doubleWhile limit n (shl v 1) (k - 1) else (v, k)

/-- More rounds than any loop over a positive 32-bit word needs (R122: "~31 iterations worst case"). -/
def loopBound : Nat := 32

end Sys2Proof.Machine
end

