-- ==== Sys2Proof/Machine/Operands.lean ====
section
/-! DEFINITION. The one operand form there is (30_encoding.md R62): the signed value of a 32-bit field as it stands, with
no extension, scaling or shift, and no addressing mode (R71). -/

namespace Sys2Proof.Machine

/-- `sext_32` of an operand field (00_scope.md R12, R13). -/
def operand (w : Word) : Int := w.toInt

end Sys2Proof.Machine
end

