-- ==== Sys2Proof/Machine/FixedPoint.lean ====
section
/-! DEFINITION. The Fixed-Point Core (40_fixed_point_core.md): the multiplier, the two reciprocals, the internal quotient,
and the meanings of MUL and RECIP. All values are raw Q16.16 integers. -/

namespace Sys2Proof.Machine

/-- `mul(a, b)` (R80): the exact product plus half, arithmetic shift by 16, low 32 bits. -/
def mulQ (a b : Int) : Int := s32 (shr (a * b + 32768) 16)

/-- The normalisation of `recip_nr` (R84): from b > 0 to (bn, s) with 32768 ≤ bn ≤ 65535 and b ≈ bn · 2^s. -/
def normalise (b : Int) : Int × Int :=
  let halved := halveWhile ONE loopBound b 0
  doubleWhile 32768 loopBound halved.1 halved.2

/-- One Newton-Raphson round (R84): x · (2 − bn · x). -/
def reciprocalRound (bn x : Int) : Int := mulQ x (2 * ONE - mulQ bn x)

/-- The value of x after n rounds from the seed 2 − bn (R84). -/
def reciprocalRounds (bn : Int) : Nat → Int
  | 0 => 2 * ONE - bn
  | n + 1 => reciprocalRound bn (reciprocalRounds bn n)

/-- The final shift of `recip_nr` (R84): right without rounding, or left keeping the low 32 bits. -/
def applyShift (x s : Int) : Int := if 0 ≤ s then shr x s.toNat else s32 (shl x (-s).toNat)

/-- `recip_nr(b)` (R84): the division-free reciprocal, exactly three rounds. -/
def recipNr (b : Int) : Int :=
  if b ≤ 0 then MAXV
  else applyShift (reciprocalRounds (normalise b).1 3) (normalise b).2

/-- `divq(a, b)` (R87), used for b > 0 only: ((a << 16) + (b >> 1)) / b with floor division. -/
def divQ (a b : Int) : Int := s32 (floorDiv (shl a 16 + shr b 1) b)

/-- `recip(cfg, b)` (R88): the domain test first in both variants. -/
def recipQ (cfg : Cfg) (b : Int) : Int :=
  if b ≤ 0 then MAXV
  else if cfg.useHwDiv then divQ ONE b
  else recipNr b

/-- `quot(cfg, a, b)` (R89), the quotient of the Newton step of LOG, b > 0. -/
def quotQ (cfg : Cfg) (a b : Int) : Int :=
  if cfg.useHwDiv then divQ a b else mulQ a (recipNr b)

/-- MUL (R80). -/
def execMul (a b : Word) (s : State) : Host.Outcome State Fault Refusal :=
  .next (completeWith (toWord (mulQ (operand a) (operand b))) s)

/-- RECIP (R88). -/
def execRecip (a : Word) (s : State) : Host.Outcome State Fault Refusal :=
  .next (completeWith (toWord (recipQ s.cfg (operand a))) s)

end Sys2Proof.Machine
end

