-- ==== Sys2Proof/Machine/Exponential.lean ====
section
/-! DEFINITION. The Exponential Kernel (41_exponential.md) and the meanings of EXP and EXPS. -/

namespace Sys2Proof.Machine

/-- The integer-power loop (R100): `repeat n times: acc = mul(acc, e)`. -/
def integerPower (e : Int) : Nat → Int → Int
  | 0, acc => acc
  | n + 1, acc => integerPower e n (mulQ acc e)

/-- The fraction scan (R100): for each index i in order, multiply by `EXP_TABLE[i]` if fraction bit 16 − i is set. -/
def fractionScan (cfg : Cfg) (f : Nat) : List (Fin 12) → Int → Int
  | [], acc => acc
  | i :: rest, acc =>
    fractionScan cfg f rest (if f.testBit (16 - i.val) then mulQ acc (expTableRead cfg i) else acc)

/-- The indices of the scan (R101): 1 to 11, the most significant fraction bit first. -/
def scanOrder : List (Fin 12) := [1, 2, 3, 4, 5, 6, 7, 8, 9, 10, 11]

/-- The integer part `x >> 16` of a non-negative x (R100). -/
def integerPart (x : Int) : Nat := (shr x 16).toNat

/-- The fraction `x & 0xFFFF` of a non-negative x (R100), which is x modulo 65536. -/
def fractionPart (x : Int) : Nat := (x % 65536).toNat

/-- `exp_q(cfg, x)` (R100), used for x ≥ 0 only (R103): the integer loop from `ONE`, then the fraction scan. -/
def expQ (cfg : Cfg) (x : Int) : Int :=
  fractionScan cfg (fractionPart x) scanOrder (integerPower cfg.eQ16.toInt (integerPart x) ONE)

/-- The magnitude of a negative x (R104). -/
def magnitude (x : Int) : Nat := (-x).toNat

/-- Above the clamp the table index is at most 79 (R42, R104). -/
theorem tableIndex_lt {x : Int} (h : ¬x ≤ -655360) : magnitude x / 8192 < 80 := by
  unfold magnitude; omega

/-- The negative path of `exps_q` for −655360 < x < 0 (R104): the entry at idx = m >> 13, or the line to the next entry
with weight (m & 0x1FFF) << 3, by `INTERP`. DESIGN CHOICE (log entry 19): under a table other than R44's the difference of
two entries may leave 32 bits, and it goes to `mul` unreduced. -/
def expNegative (cfg : Cfg) (x : Int) (h : ¬x ≤ -655360) : Int :=
  let idx := magnitude x / 8192
  let here := invExpTableRead cfg ⟨idx, Nat.lt_succ_of_lt (tableIndex_lt h)⟩
  if cfg.interp then
    let after := invExpTableRead cfg ⟨idx + 1, Nat.succ_lt_succ (tableIndex_lt h)⟩
    let weight : Int := ((magnitude x % 8192) * 8 : Nat)
    here + mulQ (after - here) weight
  else here

/-- `exps_q(cfg, x)` (R104): `exp_q` for x ≥ 0, the clamp, else the table path, in this order (R142). -/
def expsQ (cfg : Cfg) (x : Int) : Int :=
  if 0 ≤ x then expQ cfg x
  else if h : x ≤ -655360 then 0
  else expNegative cfg x h

/-- EXP (R102): for a negative operand the result is any word (R103; log entry 4). -/
def execExp (a : Word) (s : State) : Host.Outcome State Fault Refusal :=
  if 0 ≤ operand a then .next (completeWith (toWord (expQ s.cfg (operand a))) s)
  else .next (completeUnspecified (encodeCommand (.exp a)) s)

/-- EXPS (R106). -/
def execExps (a : Word) (s : State) : Host.Outcome State Fault Refusal :=
  .next (completeWith (toWord (expsQ s.cfg (operand a))) s)

end Sys2Proof.Machine
end

