-- ==== Sys2Proof/Machine/Logarithm.lean ====
section
/-! DEFINITION. The Logarithm Kernel (42_logarithm.md), stage by stage, and the meanings of LOG, LOG2 and LOG10. -/

namespace Sys2Proof.Machine

/-- Domain reduction `reduce(y)` for y ≥ 1 (R122): (k, m) with y ≈ 2^k · m and ONE ≤ m < 2 · ONE. -/
def reduceDomain (y : Int) : Int × Int :=
  let doubled := doubleWhile ONE loopBound y 0
  let halved := halveWhile (2 * ONE) loopBound doubled.1 doubled.2
  (halved.2, halved.1)

/-- The interval and midpoint of the bisection (R123, R124). -/
structure Interval where
  low : Int
  high : Int
  mid : Int
  deriving DecidableEq, Repr

/-- The biased midpoint (R123, R124): ties toward high. DESIGN CHOICE (log entry 19): under an `LN2_Q16` other than R46's the
sum may leave 32 bits, and it is halved unreduced. -/
def biasedMidpoint (low high : Int) : Int := shr (low + high + 1) 1

/-- `bisect_init(m)` (R123): the seed moves the midpoint only. -/
def bisectInit (cfg : Cfg) (m : Int) : Interval :=
  let high := cfg.ln2Q16.toInt
  ⟨0, high, if m < 98304 then m - ONE else biasedMidpoint 0 high⟩

/-- One iteration of the bisection (R124): oracle, narrow, new midpoint. -/
def bisectStep (cfg : Cfg) (m : Int) (i : Interval) : Interval :=
  if expQ cfg i.mid < m then ⟨i.mid, i.high, biasedMidpoint i.mid i.high⟩
  else ⟨i.low, i.mid, biasedMidpoint i.low i.mid⟩

/-- The bisection loop (R124): at most n iterations, with the early stop when `early` is true. -/
def bisectLoop (cfg : Cfg) (m : Int) (early : Bool) : Nat → Interval → Interval
  | 0, i => i
  | n + 1, i =>
    let i' := bisectStep cfg m i
    if early && decide (i'.high - i'.low ≤ 1) then i' else bisectLoop cfg m early n i'

/-- The number of iterations N (R124). -/
def bisectRounds : Refine → Nat
  | .newton => 16
  | .minimal => 20

/-- Whether the loop stops early (R124): under `NEWTON` only. -/
def bisectStopsEarly : Refine → Bool
  | .newton => true
  | .minimal => false

/-- `bisect(cfg, m, low, high, mid)` (R124): the final midpoint. -/
def bisect (cfg : Cfg) (m : Int) (i : Interval) : Int :=
  (bisectLoop cfg m (bisectStopsEarly cfg.refine) (bisectRounds cfg.refine) i).mid

/-- The Newton refinement (R125), with its guard 0 < e < 4 · ONE. -/
def newtonStep (cfg : Cfg) (m mid : Int) : Int :=
  let e := expQ cfg mid
  if 0 < e ∧ e < 4 * ONE then mid + quotQ cfg (m - e) e else mid

/-- The refinement as `REFINE` selects it (R120). -/
def refineMid (cfg : Cfg) (m mid : Int) : Int :=
  match cfg.refine with
  | .newton => newtonStep cfg m mid
  | .minimal => mid

/-- Reconstruction (R126): k · ln 2 + ln m. -/
def reconstruct (cfg : Cfg) (k mid : Int) : Int := s32 (mulQ (shl k 16) cfg.ln2Q16.toInt + mid)

/-- `log_q` past its domain tests (R120). -/
def logReduced (cfg : Cfg) (y : Int) : Int :=
  let k := (reduceDomain y).1
  let m := (reduceDomain y).2
  reconstruct cfg k (refineMid cfg m (bisect cfg m (bisectInit cfg m)))

/-- `log_q(cfg, y)` (R120, R121): the two domain tests, then the five stages. -/
def logQ (cfg : Cfg) (y : Int) : Int :=
  if y ≤ 0 then MINV
  else if y = ONE then 0
  else logReduced cfg y

/-- `log2_q(cfg, y)` (R129): the sentinel is passed through unscaled. -/
def log2Q (cfg : Cfg) (y : Int) : Int :=
  if y ≤ 0 then MINV else mulQ (logQ cfg y) cfg.invLn2Q16.toInt

/-- `log10_q(cfg, y)` (R130): the sentinel is passed through unscaled. -/
def log10Q (cfg : Cfg) (y : Int) : Int :=
  if y ≤ 0 then MINV else mulQ (logQ cfg y) cfg.invLn10Q16.toInt

/-- LOG (R128). -/
def execLog (a : Word) (s : State) : Host.Outcome State Fault Refusal :=
  .next (completeWith (toWord (logQ s.cfg (operand a))) s)

/-- LOG2 (R129). -/
def execLog2 (a : Word) (s : State) : Host.Outcome State Fault Refusal :=
  .next (completeWith (toWord (log2Q s.cfg (operand a))) s)

/-- LOG10 (R130). -/
def execLog10 (a : Word) (s : State) : Host.Outcome State Fault Refusal :=
  .next (completeWith (toWord (log10Q s.cfg (operand a))) s)

end Sys2Proof.Machine
end

