-- ==== Sys2Proof/Machine/Dispatch.lean ====
section
/-! DEFINITION. The dispatch: one arm per constructor of Instr, each one call of that instruction's meaning. -/

namespace Sys2Proof.Machine

def exec (i : Instr) (s : State) : Host.Outcome State Fault Refusal :=
  match i with
  | .mul a b => Sys2Proof.Machine.execMul a b s
  | .recip a => Sys2Proof.Machine.execRecip a s
  | .exp a => Sys2Proof.Machine.execExp a s
  | .exps a => Sys2Proof.Machine.execExps a s
  | .log a => Sys2Proof.Machine.execLog a s
  | .log2 a => Sys2Proof.Machine.execLog2 a s
  | .log10 a => Sys2Proof.Machine.execLog10 a s

end Sys2Proof.Machine
end

