-- ==== Sys2Proof/Machine/Cycle.lean ====
section
/-! DEFINITION. What one rising edge of the clock does (10_state.md R30 to R32). -/

namespace Sys2Proof.Machine

/-- The block completes command `c` (R31): the decoded instruction runs; a reserved op code completes with an unspecified
result and disturbs nothing else (30_encoding.md R64; log entry 5). -/
def completeCommand (c : Command) (s : State) : Host.Outcome State Fault Refusal :=
  match decodeCommand c with
  | .ok i => exec i s
  | .error _ => .next (completeUnspecified c s)

/-- The effect of edge `e`: reset wins (R32, R142); a ready block takes an offered command (R30); a busy block ignores
offers and completes when its latency is over (R31, 70_reset_and_hazards.md R166); otherwise nothing changes
(60_exceptions.md R153). Readiness is that of the state before the edge, so no command is accepted at a completing edge
(log entry 14). -/
def clockEdge (e : Edge) (s : State) : Host.Outcome State Fault Refusal :=
  if e.rst then .next (applyReset s)
  else
    match s.busy with
    | none => .next (if e.cmdValid then acceptCommand e.command s else s)
    | some c => if s.wait = 0 then completeCommand c s else .next (waitOneEdge s)

/-- One step: take the next edge, from the list or from the host, and apply it. -/
def advance (s : State) : Host.Outcome State Fault Refusal := clockEdge (nextEdge s) (popEdge s)

end Sys2Proof.Machine
end

