-- ==== Sys2Proof/Machine/Step.lean ====
section
/-! DEFINITION. The step of the machine, one rising edge of the clock, and where the host interface places a command. -/

namespace Sys2Proof.Machine

/-- One rising edge of `clk`. -/
def step (s : State) : Host.Outcome State Fault Refusal := advance s

/-- The block fetches nothing (10_state.md R23): what it runs next is the accepted command `CMD`. So the table word is put
there, as an ACCEPT leaves it with its latency over, and the next edge is a quiet one, at which it completes (log
entry 9). -/
def State.withFetchWord (s : State) (nbits w : Nat) : State := presentCommand (commandOfTableWord nbits w) s

end Sys2Proof.Machine
end

