-- ==== Sys2Proof/Machine/ResultFunction.lean ====
section
/-! DEFINITION. The result function F of 30_encoding.md R63, by op code; `none` where the rule says "unspecified". It is
written from R63's own case list, beside the dispatch and not through it, so that the two can be compared. -/

namespace Sys2Proof.Machine

/-- F(cfg, op, A, B) (R63). -/
def resultF (cfg : Cfg) (op : OpCode) (A B : Int) : Option Int :=
  match op.toNat with
  | 0x0 => some (mulQ A B)
  | 0x1 => some (recipQ cfg A)
  | 0x2 => if 0 ≤ A then some (expQ cfg A) else none
  | 0x3 => some (expsQ cfg A)
  | 0x4 => some (logQ cfg A)
  | 0x5 => some (log2Q cfg A)
  | 0x6 => some (log10Q cfg A)
  | _ => none

end Sys2Proof.Machine
end

