-- ==== Sys2Proof/Safety.lean ====
section
/-! DEFINITION. What claims are stated in: the invariant of the handshake, the abstract machine of 10_state.md R29 to R32
as a relation of its own, what a host sees happen over a run (70_reset_and_hazards.md R162), and the invariants of the
bisection. -/

namespace Sys2Proof.Machine

/-- The handshake invariant: while a command is in flight no result is shown (R30, R31). -/
def busyExcludesValid (s : State) : Bool := s.busy.isNone || s.result.isNone

/-- The state of the abstract machine (R29). -/
structure AbstractState where
  busy : Option Command
  result : Option Word
  deriving DecidableEq, Repr

/-- The abstract state of a state of the model. -/
def abstraction (s : State) : AbstractState := ⟨s.busy, s.result⟩

/-- The result function on a command (30_encoding.md R62, R63). -/
def commandResult (cfg : Cfg) (c : Command) : Option Int := resultF cfg c.op (operand c.a) (operand c.b)

/-- The three kinds of step of the abstract machine (R29). A COMPLETE whose result is unspecified may write any word. -/
inductive AbstractStep (cfg : Cfg) : AbstractState → AbstractState → Prop where
  | accept (c : Command) (r : Option Word) : AbstractStep cfg ⟨none, r⟩ ⟨some c, none⟩
  | complete (c : Command) (r : Option Word) (v : Int) (defined : commandResult cfg c = some v) :
      AbstractStep cfg ⟨some c, r⟩ ⟨none, some (toWord v)⟩
  | completeAny (c : Command) (r : Option Word) (w : Word) (unspecified : commandResult cfg c = none) :
      AbstractStep cfg ⟨some c, r⟩ ⟨none, some w⟩
  | reset (p : AbstractState) : AbstractStep cfg p ⟨none, none⟩

/-- An edge at which a ready block accepts a command (R162 (a)). -/
def Edge.offers (e : Edge) : Bool := e.cmdValid && !e.rst

/-- `k` steps, stopping at the first fault or refusal: the machine's own `Host.Core.run`, with `State` written out. -/
def runSteps : Nat → State → Host.Outcome State Fault Refusal
  | 0, s => .next s
  | k + 1, s =>
    match step s with
    | .next s' => runSteps k s'
    | .fault r => .fault r
    | .refused r => .refused r

/-- The state in which the host's next edge is `e` instead. -/
def withNextEdge (e : Edge) (s : State) : State := { popEdge s with edges := e :: (popEdge s).edges }

/-- An edge with `rst` = 1 and nothing else. -/
def resetEdge : Edge := { quietEdge with rst := true }

/-- An edge at which command `c` is offered. -/
def offerEdge (c : Command) : Edge :=
  { rst := false, cmdValid := true, cmdOp := c.op, cmdA := c.a, cmdB := c.b }

/-- What a host can see happen at one edge (70_reset_and_hazards.md R162, R163). -/
inductive Event where
  /-- An edge with `rst` = 1. -/
  | reset
  /-- A command was accepted. -/
  | accepted (c : Command)
  /-- A command completed, and this is the result shown. -/
  | shown (w : Word)
  deriving DecidableEq, Repr

/-- What happens at the step from `s` to `t`, read off the ports before and after the edge (R162). -/
def stepEvents (s t : State) : List Event :=
  if (nextEdge s).rst then [.reset]
  else if cmdReady s then (if (nextEdge s).cmdValid then [.accepted (nextEdge s).command] else [])
  else if cmdReady t then (rspResult t).toList.map .shown
  else []

/-- What happens in the first `k` steps, in order. -/
def runEvents : Nat → State → List Event
  | 0, _ => []
  | k + 1, s =>
    match step s with
    | .next t => stepEvents s t ++ runEvents k t
    | .fault _ => []
    | .refused _ => []

/-- Word `w` is the result of command `c`, where that is specified (30_encoding.md R63). -/
def isResultOf (cfg : Cfg) (c : Command) (w : Word) : Prop := ∀ v, commandResult cfg c = some v → w = toWord v

/-- With `inFlight` the command in flight, if any: a command is accepted only when none is in flight, a result is shown
only for the command in flight and is its own, and a reset abandons it (10_state.md R34, R163). -/
def eachResultIsItsOwn (cfg : Cfg) : Option Command → List Event → Prop
  | _, [] => True
  | _, .reset :: rest => eachResultIsItsOwn cfg none rest
  | none, .accepted c :: rest => eachResultIsItsOwn cfg (some c) rest
  | some _, .accepted _ :: _ => False
  | some c, .shown w :: rest => isResultOf cfg c w ∧ eachResultIsItsOwn cfg none rest
  | none, .shown _ :: _ => False

/-- The commands accepted, in order. -/
def acceptedCommands : List Event → List Command
  | [] => []
  | .accepted c :: rest => c :: acceptedCommands rest
  | .reset :: rest => acceptedCommands rest
  | .shown _ :: rest => acceptedCommands rest

/-- The results shown, in order. -/
def shownResults : List Event → List Word
  | [] => []
  | .shown w :: rest => w :: shownResults rest
  | .reset :: rest => shownResults rest
  | .accepted _ :: rest => shownResults rest

/-- The invariant of the bisection of LOG with high bound `top` (42_logarithm.md R127). -/
def Interval.ordered (i : Interval) (top : Int) : Prop := 0 ≤ i.low ∧ i.low ≤ i.mid ∧ i.mid ≤ i.high ∧ i.high ≤ top

/-- Target `m` lies between the oracle's values at the ends of the interval, where an end has moved from its start
(42_logarithm.md R124): below it at `low`, at or above it at `high`. -/
def Interval.brackets (i : Interval) (cfg : Cfg) (m : Int) (start : Interval) : Prop :=
  (i.low = start.low ∨ expQ cfg i.low < m) ∧ (i.high = start.high ∨ m ≤ expQ cfg i.high)

end Sys2Proof.Machine
end

