-- ==== Sys2Proof/Certificates/Slice0/Obligations.lean ====
section
/-! DEFINITION. The statements for the provers: each `def Obligations.<Name> : Prop` says what OBLIGATIONS.json lists. -/

open Sys2Proof Sys2Proof.Machine

/-! ### The machine: reset, accept, complete, outputs -/

/-- R32, R163: a reset edge clears the handshake in every state and whatever the other inputs are, and the command it
abandons never shows a result: as long as no command is accepted afterwards, no result appears. -/
def Obligations.ResetEdgeClearsHandshake : Prop :=
  ∀ s : State, (nextEdge s).rst = true →
    step s = .next { popEdge s with busy := none, result := none } ∧
    ∀ (k : Nat) (t : State), runSteps (k + 1) s = .next t →
      (∀ (j : Nat) (u : State), 1 ≤ j → j ≤ k → runSteps j s = .next u → (nextEdge u).offers = false) →
        t.busy = none ∧ t.result = none

/-- R30: a ready block takes the offered command at an edge without reset; a busy block ignores every offer; the payload
is ignored at every edge that is no accepting edge. `CMD` holds the words as they stand, and reading an operand of it
gives the signed value. -/
def Obligations.CommandIsAcceptedOnlyWhenReady : Prop :=
  (∀ s : State, (nextEdge s).rst = false → s.busy = none → (nextEdge s).cmdValid = true →
    ∃ t, step s = .next t ∧ t.busy = some ⟨(nextEdge s).cmdOp, (nextEdge s).cmdA, (nextEdge s).cmdB⟩ ∧
      t.result = none ∧ t.cfg = s.cfg) ∧
  (∀ (s : State) (c : Command) (v : Bool) (op : OpCode) (a b : Word), s.busy = some c →
    step s = step (withNextEdge { nextEdge s with cmdValid := v, cmdOp := op, cmdA := a, cmdB := b } s)) ∧
  (∀ (s : State) (op : OpCode) (a b : Word), ((nextEdge s).rst = true ∨ (nextEdge s).cmdValid = false) →
    step s = step (withNextEdge { nextEdge s with cmdOp := op, cmdA := a, cmdB := b } s)) ∧
  (∀ e : Edge, e.command.op = e.cmdOp ∧ operand e.command.a = e.cmdA.toInt ∧ operand e.command.b = e.cmdB.toInt)

/-- R63 (with R31): at the completing edge the word written is F(cfg, op, A, B), or any word where F is unspecified (the
free word, log entries 4 to 6); before it nothing changes but the model's own count of the edges to come (log entry 18). -/
def Obligations.CompletionWritesTheResultFunction : Prop :=
  ∀ (s : State) (c : Command), s.busy = some c → (nextEdge s).rst = false →
    (s.wait ≠ 0 → step s = .next { popEdge s with wait := s.wait - 1 }) ∧
    (s.wait = 0 →
      (∀ v, commandResult s.cfg c = some v →
        step s = .next { popEdge s with busy := none, result := some (BitVec.ofInt 32 v) }) ∧
      (commandResult s.cfg c = none →
        step s = .next { popEdge s with
          busy := none
          result := some (Config.freeWord s.cfg c.canonicalForm s.draws)
          draws := s.draws + 1 }))

/-- R33: the outputs are functions of the state; a shown result stays at every edge that is no reset and accepts no
command, and is lost when the next command is accepted. The premise `busyExcludesValid` is the invariant of `StepKeepsBusyExcludesValid`. -/
def Obligations.OutputsFollowTheStateAndTheResultIsHeld : Prop :=
  (∀ s : State, (cmdReady s = true ↔ s.busy = none) ∧ (rspValid s = true ↔ ∃ w, s.result = some w) ∧
    (∀ w, s.result = some w → rspResult s = some w)) ∧
  (∀ (s t : State) (w : Word), busyExcludesValid s = true → s.result = some w →
    (nextEdge s).rst = false → (nextEdge s).cmdValid = false → step s = .next t →
      rspValid t = true ∧ rspResult t = some w) ∧
  (∀ s t : State, s.busy = none → (nextEdge s).rst = false → (nextEdge s).cmdValid = true → step s = .next t →
    cmdReady t = false ∧ rspValid t = false ∧ rspResult t = none)

/-- R153: an idle block changes nothing at an edge without reset and without a command. -/
def Obligations.IdleBlockChangesNothing : Prop :=
  ∀ s : State, (nextEdge s).rst = false → (nextEdge s).cmdValid = false → s.busy = none →
    step s = .next (popEdge s) ∧ abstraction (popEdge s) = abstraction s ∧ (popEdge s).cfg = s.cfg

/-- R29: every step of the model is one of the three kinds of step of the abstract machine or changes nothing of it, and
every abstract step is taken at some edge and with some latency left, but for the completion of a command whose result is
unspecified, where the model draws one free word. -/
def Obligations.StepsAreTheAbstractMachinesSteps : Prop :=
  (∀ s t : State, step s = .next t →
    abstraction t = abstraction s ∨ AbstractStep s.cfg (abstraction s) (abstraction t)) ∧
  (∀ (s : State) (q : AbstractState), AbstractStep s.cfg (abstraction s) q →
    (∀ c, s.busy = some c → q.result ≠ none → commandResult s.cfg c ≠ none) →
      ∃ (e : Edge) (n : Nat) (t : State), step (withNextEdge e { s with wait := n }) = .next t ∧ abstraction t = q)

/-- R30, R31: no step, from any state that meets it, leaves the invariant that no result is shown while a command is in
flight. -/
def Obligations.StepKeepsBusyExcludesValid : Prop :=
  ∀ s t : State, busyExcludesValid s = true → step s = .next t → busyExcludesValid t = true

/-- R35: after a reset edge, and in the reset state, the block is ready and shows no result, and the tables and constants
hold their values. In the reset state these are those of R43 to R46. -/
def Obligations.ResetLeavesReadyWithoutResult : Prop :=
  (State.reset.busy = none ∧ State.reset.result = none ∧ cmdReady State.reset = true ∧
    rspValid State.reset = false ∧ busyExcludesValid State.reset = true) ∧
  (State.reset.cfg.expTable = Config.expTableDefault ∧ State.reset.cfg.invExpTable = Config.invExpTableDefault ∧
    State.reset.cfg.eQ16.toInt = 178145 ∧ State.reset.cfg.ln2Q16.toInt = 45426 ∧
    State.reset.cfg.invLn2Q16.toInt = 94548 ∧ State.reset.cfg.invLn10Q16.toInt = 28480) ∧
  (∀ s t : State, (nextEdge s).rst = true → step s = .next t →
    cmdReady t = true ∧ rspValid t = false ∧ t.cfg = s.cfg)

/-- R41, R25: no step changes the configuration, and every table read gives after a step what it gave before. -/
def Obligations.NoStepChangesTablesOrConfiguration : Prop :=
  ∀ s t : State, step s = .next t →
    t.cfg = s.cfg ∧ (∀ i, expTableRead t.cfg i = expTableRead s.cfg i) ∧
      (∀ j, invExpTableRead t.cfg j = invExpTableRead s.cfg j)

/-- R140: no instruction, command or edge faults or is refused, in any state. That a command with a reserved op code is
not refused either is the model's choice between R64's two treatments (log entry 5, DESIGN CHOICE). -/
def Obligations.NothingFaultsOrTraps : Prop :=
  (∀ (i : Instr) (s : State), ∃ t, exec i s = .next t) ∧
  (∀ (c : Command) (s : State), ∃ t, completeCommand c s = .next t) ∧
  (∀ s : State, ∃ t, step s = .next t)

/-- R31, R166: a command in flight completes, with its own result, unless reset. The number of edges it takes is the
model's own count of its latency (log entry 18, DESIGN CHOICE of the form); for a reserved op code it rests on log
entry 5. -/
def Obligations.CommandInFlightCompletesUnlessReset : Prop :=
  ∀ (s : State) (c : Command), s.busy = some c →
    (∀ (j : Nat) (u : State), j ≤ s.wait → runSteps j s = .next u → (nextEdge u).rst = false) →
      (∀ (j : Nat) (u : State), j ≤ s.wait → runSteps j s = .next u → u.busy = some c) ∧
      ∃ (t : State) (w : Word), runSteps (s.wait + 1) s = .next t ∧ t.busy = none ∧ t.result = some w ∧
        ∀ v, commandResult s.cfg c = some v → w = BitVec.ofInt 32 v

/-- R31: when the command in flight decodes to an instruction, the step at its completing edge is that instruction run on
the state with the edge taken; and a word placed by the host interface is run by the very next step, which is the model's
choice of what `withFetchWord` sets (log entry 9, DESIGN CHOICE). -/
def Obligations.StepRunsTheDecodedInstruction : Prop :=
  (∀ (s : State) (c : Command) (i : Instr), s.busy = some c → decodeCommand c = .ok i →
    (nextEdge s).rst = false → s.wait = 0 → step s = exec i (popEdge s)) ∧
  (∀ (s : State) (nbits w : Nat) (i : Instr), decodeTableWord nbits w = some i →
    step (s.withFetchWord nbits w) =
      exec i { s with busy := some (commandOfTableWord nbits w), result := none, wait := 0 })

/-- R64: a reserved op code is rejected by the decoder by name; on the machine it is accepted like any other, completes
with any word (log entry 5, DESIGN CHOICE of running on) and disturbs nothing else. Every other op code decodes,
whatever the operands. -/
def Obligations.ReservedOpCodesCompleteWithAnyWord : Prop :=
  (∀ c : Command, 7 ≤ c.op.toNat → decodeCommand c = .error (.reservedOp c.op)) ∧
  (∀ c : Command, c.op.toNat < 7 → ∃ i, decodeCommand c = .ok i) ∧
  (∀ (s : State) (c : Command), 7 ≤ c.op.toNat → s.busy = none → nextEdge s = offerEdge c →
    ∃ t, step s = .next t ∧ t.busy = some c ∧ t.result = none ∧ t.cfg = s.cfg) ∧
  (∀ (s : State) (c : Command), 7 ≤ c.op.toNat → s.busy = some c → (nextEdge s).rst = false → s.wait = 0 →
    step s = .next { popEdge s with
      busy := none, result := some (Config.freeWord s.cfg c s.draws), draws := s.draws + 1 })

/-- R34: over any number of steps from any state, whatever the host drives (resets at any edge, offers to a busy block,
idle edges) and whatever the latencies, every result shown is that of the command in flight and no other; and without a
reset the results shown are those of the commands accepted, in the same order. Nothing here rests on reserved op codes
running on (log entry 5): it would hold as well if a run ended at one. -/
def Obligations.EachResultIsItsOwnCommandsInOrder : Prop :=
  (∀ (s : State) (k : Nat), eachResultIsItsOwn s.cfg s.busy (runEvents k s)) ∧
  (∀ (s : State) (k : Nat), s.busy = none → Event.reset ∉ runEvents k s →
    (shownResults (runEvents k s)).length ≤ (acceptedCommands (runEvents k s)).length ∧
    (acceptedCommands (runEvents k s)).length ≤ (shownResults (runEvents k s)).length + 1 ∧
    ∀ (n : Nat) (c : Command) (w : Word), (acceptedCommands (runEvents k s))[n]? = some c →
      (shownResults (runEvents k s))[n]? = some w → isResultOf s.cfg c w)

/-- R14: what an instruction writes depends on the configuration and its operands only: two states that share nothing but
the configuration get the same word (EXP within its precondition). -/
def Obligations.ResultsCarryNoHistory : Prop :=
  ∀ (i : Instr) (s t : State), s.cfg = t.cfg → i.meetsPrecondition = true →
    ∃ w : Word, exec i s = .next { s with busy := none, result := some w } ∧
      exec i t = .next { t with busy := none, result := some w }

/-- The frame of all seven instructions (R31: "The step writes nothing else"): configuration, tables and the host are
unchanged, and no free word is drawn but by EXP of a negative operand, which draws one (log entry 6). -/
def Obligations.InstructionsWriteOnlyTheHandshake : Prop :=
  ∀ (i : Instr) (s t : State), exec i s = .next t →
    t.busy = none ∧ (∃ w, t.result = some w) ∧ t.cfg = s.cfg ∧
      t.wait = s.wait ∧ t.edges = s.edges ∧ t.host = s.host ∧
      (∀ j, expTableRead t.cfg j = expTableRead s.cfg j) ∧
      (∀ j, invExpTableRead t.cfg j = invExpTableRead s.cfg j) ∧
      (i.meetsPrecondition = true → t.draws = s.draws) ∧
      (i.meetsPrecondition = false → t.draws = s.draws + 1)

/-! ### Encoding -/

/-- R60, R61: decoding the canonical word of an instruction gives the instruction, every operand bit included. -/
def Obligations.DecodeOfEncodeIsTheInstruction : Prop :=
  ∀ i : Instr, i.wf = true →
    decode (encode i) = .ok i ∧ decodeTableWord 72 (encode i).toNat = some i

/-- R62: encoding what a word decodes to gives the word back, with field b cleared unless the operation is MUL. -/
def Obligations.EncodeOfDecodeIsTheCanonicalWord : Prop :=
  ∀ (w : CommandWord) (i : Instr), decode w = .ok i →
    encode i = if w.extractLsb' 64 4 = 0 then w else w &&& 0xFFFFFFFFF00000000

/-- R69: the decoder and the opcode table select the same row for every word; a word that selects no row is rejected with
its op code. -/
def Obligations.DecodingAgreesWithTheOpcodeTable : Prop :=
  (∀ (w : CommandWord) (row : OpcodeRow), row ∈ opcodeTable → w &&& row.mask = row.pattern →
    ∃ i, decode w = .ok i ∧ mnemonic i = row.mnemonic) ∧
  (∀ w : CommandWord, (∀ row ∈ opcodeTable, w &&& row.mask ≠ row.pattern) →
    decode w = .error (.reservedOp (w.extractLsb' 64 4)))

/-- R62: operands are the signed values of their fields; a one-operand command takes field a and ignores field b, in
decoding, in the result and in what the abstract machine may do with the command in flight; the canonical encoding has
b = 0. -/
def Obligations.FieldBIsIgnoredByOneOperandCommands : Prop :=
  (∀ (op : OpCode) (a b b' : Word), 1 ≤ op.toNat → op.toNat ≤ 6 →
    decodeCommand ⟨op, a, b⟩ = decodeCommand ⟨op, a, b'⟩ ∧
    (∀ cfg : Cfg, commandResult cfg ⟨op, a, b⟩ = commandResult cfg ⟨op, a, b'⟩) ∧
    (∀ (cfg : Cfg) (r : Option Word) (q : AbstractState),
      AbstractStep cfg ⟨some ⟨op, a, b⟩, r⟩ q ↔ AbstractStep cfg ⟨some ⟨op, a, b'⟩, r⟩ q) ∧
    ∀ s : State, commandResult s.cfg ⟨op, a, b⟩ ≠ none →
      completeCommand ⟨op, a, b⟩ s = completeCommand ⟨op, a, b'⟩ s) ∧
  (∀ w : Word, operand w = if w.toNat < 2147483648 then (w.toNat : Int) else (w.toNat : Int) - 4294967296) ∧
  (∀ i : Instr, (encodeCommand i).canonical = true)

/-- A few words written out from the opcode table decode to what they stand for (R60, R61; S5 of 95_test_vectors.md). -/
def Obligations.ExampleWordsDecode : Prop :=
  decode 0x00001800000028000 = .ok (.mul 0x00018000 0x00028000) ∧
  decode 0x1FFFB000000000000 = .ok (.recip 0xFFFB0000) ∧
  decode 0x200010000DEADBEEF = .ok (.exp 0x00010000) ∧
  decode 0x3FFFFD00000000000 = .ok (.exps 0xFFFFD000) ∧
  decode 0x400010000FFFFFFFF = .ok (.log 0x00010000) ∧
  decode 0x50008000000000000 = .ok (.log2 0x00080000) ∧
  decode 0x60064000000000000 = .ok (.log10 0x00640000) ∧
  decode 0x70000000000000000 = .error (.reservedOp 0x7)

/-! ### The Fixed-Point Core -/

/-- R80, R81: MUL completes for every pair of operands and writes floor((A·B + 32768) / 65536), low 32 bits; nothing else
of the state changes. -/
def Obligations.MulWritesTheRoundedProduct : Prop :=
  ∀ (a b : Word) (s : State),
    exec (.mul a b) s = .next { s with
      busy := none, result := some (BitVec.ofInt 32 ((a.toInt * b.toInt + 32768) / 65536)) }

/-- R80, R82: the 64-bit datapath: with the operands sign-extended to 64 bits, product and sum fit, and the result is bits
47:16 of the sum. -/
def Obligations.MulIsBits47To16OfTheWideSum : Prop :=
  ∀ a b : Word,
    (a.signExtend 64 * b.signExtend 64 + 32768#64).toInt = operand a * operand b + 32768 ∧
    toWord (mulQ (operand a) (operand b)) =
      (a.signExtend 64 * b.signExtend 64 + 32768#64).extractLsb' 16 32

/-- R81: where the result fits, it is the exact product rounded to nearest, a half toward plus infinity. -/
def Obligations.MulRoundsToNearestTiesUp : Prop :=
  ∀ a b : Word, -140737488388096 ≤ operand a * operand b → operand a * operand b < 140737488322560 →
    -32768 < 65536 * mulQ (operand a) (operand b) - operand a * operand b ∧
    65536 * mulQ (operand a) (operand b) - operand a * operand b ≤ 32768

/-- R83: the rounded product fits 32 bits exactly when −2^47 − 32768 ≤ a·b < 2^47 − 32768; where it does not, the result
is its low 32 bits read as two's complement; and the rule's examples. -/
def Obligations.MulWrapsExactlyOutsideTheRange : Prop :=
  (∀ a b : Word,
    ((MINV ≤ (operand a * operand b + 32768) / 65536 ∧ (operand a * operand b + 32768) / 65536 ≤ MAXV) ↔
      (-140737488388096 ≤ operand a * operand b ∧ operand a * operand b < 140737488322560)) ∧
    MINV ≤ mulQ (operand a) (operand b) ∧ mulQ (operand a) (operand b) ≤ MAXV ∧
    mulQ (operand a) (operand b) % 4294967296 = (operand a * operand b + 32768) / 65536 % 4294967296) ∧
  (mulQ MAXV MAXV = -65536 ∧ mulQ MINV MINV = 0 ∧ mulQ MINV MAXV = 32768 ∧ mulQ MAXV 131072 = -2 ∧
    mulQ MINV (-65536) = MINV ∧ mulQ MINV ONE = MINV ∧ mulQ MAXV ONE = MAXV ∧ mulQ MINV 1 = -32768 ∧
    mulQ MINV (-1) = 32768)

/-- R80: zero, identity and commutativity of `mul` on all words. -/
def Obligations.MulHasZeroIdentityAndCommutes : Prop :=
  ∀ a b : Word, mulQ (operand a) 0 = 0 ∧ mulQ 0 (operand a) = 0 ∧ mulQ (operand a) ONE = operand a ∧
    mulQ ONE (operand b) = operand b ∧ mulQ (operand a) (operand b) = mulQ (operand b) (operand a)

/-- R88: RECIP completes for every operand: the sentinel for A ≤ 0 in both variants, else floor((2^32 + (A >> 1)) / A) low
32 bits with the divider, or `recip_nr`. And R84: `recip_nr` of a positive operand normalises to (bn, s), takes three
rounds from the seed 2 − bn, and shifts by s: right without rounding, or left keeping the low 32 bits. -/
def Obligations.RecipWritesTheReciprocal : Prop :=
  (∀ (a : Word) (s : State),
    exec (.recip a) s = .next { s with
      busy := none
      result := some (
        if a.toInt ≤ 0 then 0x7FFFFFFF
        else if s.cfg.useHwDiv = true then BitVec.ofInt 32 ((4294967296 + a.toInt / 2) / a.toInt)
        else BitVec.ofInt 32 (recipNr a.toInt)) }) ∧
  (∀ (a : Word) (bn s : Int), 0 < a.toInt → normalise a.toInt = (bn, s) →
    recipNr a.toInt =
      if 0 ≤ s then reciprocalRounds bn 3 / 2 ^ s.toNat
      else (BitVec.ofInt 32 (reciprocalRounds bn 3 * 2 ^ (-s).toNat)).toInt) ∧
  (∀ bn : Int, reciprocalRounds bn 0 = 131072 - bn ∧
    ∀ n : Nat, reciprocalRounds bn (n + 1) =
      mulQ (reciprocalRounds bn n) (131072 - mulQ bn (reciprocalRounds bn n)))

/-- R88, R141: `MAXV` is the result of RECIP for A ≤ 0 and for no other operand, in every configuration. -/
def Obligations.RecipSentinelMeansDomainError : Prop :=
  ∀ (cfg : Cfg) (a : Word), recipQ cfg (operand a) = MAXV ↔ operand a ≤ 0

/-- R84: the normalisation of a positive word reaches [0.5, 1.0) with a shift of at most 15 either way, exactly when it
doubles and by truncation when it halves; and R85: above 1.0 only the bits that are kept matter. -/
def Obligations.ReciprocalNormalisesTheOperand : Prop :=
  ∀ a : Word, 0 < operand a →
    (32768 ≤ (normalise (operand a)).1 ∧ (normalise (operand a)).1 ≤ 65535) ∧
    (-15 ≤ (normalise (operand a)).2 ∧ (normalise (operand a)).2 ≤ 15) ∧
    ((normalise (operand a)).2 ≤ 0 →
      (normalise (operand a)).1 = operand a * 2 ^ (-(normalise (operand a)).2).toNat) ∧
    (0 ≤ (normalise (operand a)).2 →
      (normalise (operand a)).1 = operand a / 2 ^ (normalise (operand a)).2.toNat ∧
      recipNr (operand a) =
        recipNr ((normalise (operand a)).1 * 2 ^ (normalise (operand a)).2.toNat))

/-- R85: the ranges inside the three rounds, for every normalised operand, and the error after the third: at most 3.27 raw
units. -/
def Obligations.ReciprocalRoundsConverge : Prop :=
  ∀ bn : Int, 32768 ≤ bn → bn ≤ 65535 →
    (∀ n : Nat, n < 3 →
      49152 ≤ mulQ bn (reciprocalRounds bn n) ∧ mulQ bn (reciprocalRounds bn n) ≤ 65537 ∧
      65537 ≤ reciprocalRounds bn (n + 1) ∧ reciprocalRounds bn (n + 1) ≤ 131070) ∧
    100 * (reciprocalRounds bn 3 * bn - 4294967296) ≤ 327 * bn ∧
    -(327 * bn) ≤ 100 * (reciprocalRounds bn 3 * bn - 4294967296)

/-- R87: where the quotient fits, `divq` is a/b rounded to nearest, a half toward plus infinity, for either sign of a. -/
def Obligations.QuotientRoundsToNearestTiesUp : Prop :=
  ∀ a b : Word, 0 < operand b →
    MINV ≤ (operand a * 65536 + operand b / 2) / operand b →
    (operand a * 65536 + operand b / 2) / operand b ≤ MAXV →
      -operand b < 2 * (operand b * divQ (operand a) (operand b) - operand a * 65536) ∧
      2 * (operand b * divQ (operand a) (operand b) - operand a * 65536) ≤ operand b

/-! ### The Exponential Kernel -/

/-- R100, R102: EXP of a non-negative word completes and writes the product of n factors `E_Q16` and of the table entries
whose fraction bits are set, in the rule's order, every product rounded. -/
def Obligations.ExpWritesTheBitSerialProduct : Prop :=
  ∀ (a : Word) (s : State), 0 ≤ a.toInt →
    exec (.exp a) s = .next { s with
      busy := none
      result := some (BitVec.ofInt 32 (
        ([1, 2, 3, 4, 5, 6, 7, 8, 9, 10, 11] : List (Fin 12)).foldl
          (fun acc i => if a.getLsbD (16 - i.val) then mulQ acc (s.cfg.expTable[i]).toInt else acc)
          ((fun acc => mulQ acc s.cfg.eQ16.toInt)^[a.toNat / 65536] ONE))) }

/-- R103: EXP of a negative word completes with any word, and nothing else is affected. The word is the model's free value
(log entry 4); the statement holds for every count of draws. -/
def Obligations.ExpOfNegativeWritesAnyWord : Prop :=
  ∀ (a : Word) (s : State), a.toInt < 0 →
    exec (.exp a) s = .next { s with
      busy := none, result := some (Config.freeWord s.cfg ⟨0x2, a, 0⟩ s.draws), draws := s.draws + 1 }

/-- R101: the five low fraction bits do not count, in any configuration. -/
def Obligations.ExpIgnoresTheLowFiveBits : Prop :=
  ∀ (cfg : Cfg) (x : Int), 0 ≤ x → expQ cfg x = expQ cfg (x / 32 * 32)

/-- R102, R108: the exact values: `ONE` for 0 to 31 and `E_Q16` for `ONE` in every configuration, the table entry for a
single used fraction bit, and the example of R102. -/
def Obligations.ExpHasItsExactValues : Prop :=
  (∀ (cfg : Cfg) (x : Int), 0 ≤ x → x ≤ 31 → expQ cfg x = ONE) ∧
  (∀ cfg : Cfg, expQ cfg ONE = cfg.eQ16.toInt) ∧
  (∀ (cfg : Cfg) (i : Fin 12), 1 ≤ i.val → expQ cfg (2 ^ (16 - i.val)) = expTableRead cfg i) ∧
  expQ Config.cfgA 114688 = 377135

/-- R108 (c): with the tables of 20_memory.md the oracle of LOG returns values in [65536, 131038] on [0, 45426], and
within [0, 65535] at most 178060. -/
def Obligations.OracleValuesStayInRange : Prop :=
  ∀ (h p : Bool) (r : Refine) (x : Int), 0 ≤ x → x ≤ 65535 →
    65536 ≤ expQ (Config.withFlags h r p) x ∧ expQ (Config.withFlags h r p) x ≤ 178060 ∧
    (x ≤ 45426 → expQ (Config.withFlags h r p) x ≤ 131038)

/-- R108 (d), on one whole unit: with the tables of 20_memory.md `exp_q` is weakly increasing on [0, 65535], and strictly
from one multiple of 32 to the next. -/
def Obligations.ExpIncreasesOnTheUnitInterval : Prop :=
  ∀ (h p : Bool) (r : Refine) (x y : Int), 0 ≤ x → x ≤ y → y ≤ 65535 →
    expQ (Config.withFlags h r p) x ≤ expQ (Config.withFlags h r p) y ∧
    (x / 32 < y / 32 → expQ (Config.withFlags h r p) x < expQ (Config.withFlags h r p) y)

/-- R104, R106: EXPS completes for every operand: as EXP from 0 up, 0 at and below −10.0, and between them the table entry
of the magnitude, or the line to the next entry when `INTERP` = 1. Under a table whose entries differ by 2^31 or more the
difference is unreduced, which is the model's choice (log entry 19, DESIGN CHOICE). -/
def Obligations.ExpsWritesTheTablePathOrExp : Prop :=
  (∀ (a : Word) (s : State), 0 ≤ a.toInt → exec (.exps a) s = exec (.exp a) s ∧ ∃ t, exec (.exps a) s = .next t) ∧
  (∀ (a : Word) (s : State), a.toInt ≤ -655360 →
    exec (.exps a) s = .next { s with busy := none, result := some 0 }) ∧
  (∀ (a : Word) (s : State) (j : Fin 80) (r : Nat), r < 8192 → a.toInt < 0 →
    -a.toInt = (j.val * 8192 + r : Nat) →
      exec (.exps a) s = .next { s with
        busy := none
        result := some (BitVec.ofInt 32 (
          if s.cfg.interp = true then
            invExpTableRead s.cfg j.castSucc +
              mulQ (invExpTableRead s.cfg j.succ - invExpTableRead s.cfg j.castSucc) (r * 8 : Nat)
          else invExpTableRead s.cfg j.castSucc)) })

/-- R105, R106: with the tables of 20_memory.md the negative path stays between the two table entries, is exact on the
grid, and is 0 exactly at and below −10.0, where the smallest other value is 3. -/
def Obligations.ExpsStaysBetweenTableEntries : Prop :=
  ∀ (h p : Bool) (r : Refine) (x : Int), x < 0 → MINV ≤ x →
    (x ≤ -655360 ↔ expsQ (Config.withFlags h r p) x = 0) ∧
    (-655360 < x → 3 ≤ expsQ (Config.withFlags h r p) x ∧
      ∀ j : Fin 80, (j.val : Int) * 8192 ≤ -x → -x < ((j.val : Int) + 1) * 8192 →
        invExpTableRead (Config.withFlags h r p) j.succ ≤ expsQ (Config.withFlags h r p) x ∧
        expsQ (Config.withFlags h r p) x ≤ invExpTableRead (Config.withFlags h r p) j.castSucc ∧
        (-x = (j.val : Int) * 8192 ∨ p = false →
          expsQ (Config.withFlags h r p) x = invExpTableRead (Config.withFlags h r p) j.castSucc))

/-! ### The Logarithm Kernel -/

/-- R141, R142: RECIP, LOG, LOG2 and LOG10 of an operand ≤ 0 complete with their sentinels, in every configuration. -/
def Obligations.DomainErrorsWriteTheirSentinels : Prop :=
  ∀ (a : Word) (s : State), a.toInt ≤ 0 →
    exec (.recip a) s = .next { s with busy := none, result := some 0x7FFFFFFF } ∧
    exec (.log a) s = .next { s with busy := none, result := some 0x80000000 } ∧
    exec (.log2 a) s = .next { s with busy := none, result := some 0x80000000 } ∧
    exec (.log10 a) s = .next { s with busy := none, result := some 0x80000000 }

/-- R120, R121, R126: LOG completes for every operand: `MINV` for y ≤ 0, 0 for `ONE`, else s32 of k · `LN2_Q16`, as one
`mul` of k · 65536, plus the midpoint of the bisection, corrected once when `REFINE` = `NEWTON`. -/
def Obligations.LogWritesTheReconstruction : Prop :=
  ∀ (a : Word) (s : State) (k m : Int), reduceDomain a.toInt = (k, m) →
    exec (.log a) s = .next { s with
      busy := none
      result := some (
        if a.toInt ≤ 0 then 0x80000000
        else if a.toInt = 65536 then 0
        else BitVec.ofInt 32 (
          mulQ (k * 65536) s.cfg.ln2Q16.toInt +
            (if s.cfg.refine = .newton then newtonStep s.cfg m (bisect s.cfg m (bisectInit s.cfg m))
            else bisect s.cfg m (bisectInit s.cfg m)))) }

/-- R129: LOG2 completes for every operand and writes the sentinel, or the rounded product of `log_q` and `INV_LN2_Q16`. -/
def Obligations.Log2WritesTheScaledLogarithm : Prop :=
  ∀ (a : Word) (s : State),
    exec (.log2 a) s = .next { s with
      busy := none
      result := some (
        if a.toInt ≤ 0 then 0x80000000
        else BitVec.ofInt 32 ((logQ s.cfg a.toInt * s.cfg.invLn2Q16.toInt + 32768) / 65536)) }

/-- R130: LOG10 completes for every operand and writes the sentinel, or the rounded product of `log_q` and
`INV_LN10_Q16`. -/
def Obligations.Log10WritesTheScaledLogarithm : Prop :=
  ∀ (a : Word) (s : State),
    exec (.log10 a) s = .next { s with
      busy := none
      result := some (
        if a.toInt ≤ 0 then 0x80000000
        else BitVec.ofInt 32 ((logQ s.cfg a.toInt * s.cfg.invLn10Q16.toInt + 32768) / 65536)) }

/-- R122: the domain reduction of a positive word: m in [1.0, 2.0), k in [−16, 14], exact when it doubles, truncating when
it halves, so that from 2.0 up `log_q` depends on the kept bits only; and the two ends. -/
def Obligations.DomainReductionReachesOneToTwo : Prop :=
  (∀ a : Word, 0 < operand a →
    (ONE ≤ (reduceDomain (operand a)).2 ∧ (reduceDomain (operand a)).2 ≤ 131071) ∧
    (-16 ≤ (reduceDomain (operand a)).1 ∧ (reduceDomain (operand a)).1 ≤ 14) ∧
    ((reduceDomain (operand a)).1 ≤ 0 →
      (reduceDomain (operand a)).2 = operand a * 2 ^ (-(reduceDomain (operand a)).1).toNat) ∧
    (0 ≤ (reduceDomain (operand a)).1 →
      (reduceDomain (operand a)).2 = operand a / 2 ^ (reduceDomain (operand a)).1.toNat ∧
      ∀ cfg : Cfg, logQ cfg (operand a) =
        logQ cfg ((reduceDomain (operand a)).2 * 2 ^ (reduceDomain (operand a)).1.toNat))) ∧
  reduceDomain 1 = (-16, ONE) ∧ reduceDomain MAXV = (14, 131071)

/-- R127: with the tables of 20_memory.md, 0 ≤ low ≤ mid ≤ high ≤ 45426 holds at initialisation, every iteration keeps it
from any interval that meets it, and at such an interval the oracle call is in its precondition, has integer part 0 and
returns a value in [65536, 131038]. -/
def Obligations.BisectionKeepsItsInterval : Prop :=
  ∀ (h p : Bool) (r : Refine) (m : Int), ONE ≤ m → m ≤ 131071 →
    (bisectInit (Config.withFlags h r p) m).ordered 45426 ∧
    ∀ i : Interval, i.ordered 45426 →
      (bisectStep (Config.withFlags h r p) m i).ordered 45426 ∧ integerPart i.mid = 0 ∧
      65536 ≤ expQ (Config.withFlags h r p) i.mid ∧ expQ (Config.withFlags h r p) i.mid ≤ 131038

/-- R124: the value of the bisection does not depend on whether the early stop is taken, for any number of iterations, in
every configuration. Where low + high + 1 leaves 32 bits the sum is unreduced, which is the model's choice (log entry 19,
DESIGN CHOICE). -/
def Obligations.EarlyStopDoesNotChangeTheMidpoint : Prop :=
  ∀ (cfg : Cfg) (m : Int) (n : Nat) (i : Interval), i.low ≤ i.mid → i.mid ≤ i.high →
    (bisectLoop cfg m true n i).mid = (bisectLoop cfg m false n i).mid

/-- R128, R141: with the tables and constants of 20_memory.md and any flags, `MINV` is the result of LOG, LOG2 and LOG10
for y ≤ 0 and for no other operand. -/
def Obligations.LogSentinelMeansDomainError : Prop :=
  ∀ (h p : Bool) (r : Refine) (a : Word),
    (logQ (Config.withFlags h r p) (operand a) = MINV ↔ operand a ≤ 0) ∧
    (log2Q (Config.withFlags h r p) (operand a) = MINV ↔ operand a ≤ 0) ∧
    (log10Q (Config.withFlags h r p) (operand a) = MINV ↔ operand a ≤ 0)

/-- R128: with the tables of 20_memory.md a power of two 2^(n − 16) · 1.0 gives (n − 16) · 45426 exactly, whatever the
flags. -/
def Obligations.LogOfPowersOfTwoIsExact : Prop :=
  ∀ (h p : Bool) (r : Refine) (n : Nat), n ≤ 30 →
    logQ (Config.withFlags h r p) (2 ^ n) = ((n : Int) - 16) * 45426

/-- R126: with `LN2_Q16` = 45426 the reconstruction adds k · 45426 exactly and never wraps. -/
def Obligations.ReconstructionIsExact : Prop :=
  ∀ (h p : Bool) (r : Refine) (k mid : Int), -16 ≤ k → k ≤ 14 → -65536 ≤ mid → mid ≤ 65536 →
    reconstruct (Config.withFlags h r p) k mid = k * 45426 + mid

/-- R8, R88, R102, R106, R120, R129, R130: which flags an operation does not depend on: MUL and EXP on none, RECIP on
`USE_HW_DIV` only, EXPS on `INTERP` only, LOG, LOG2 and LOG10 never on `INTERP`, and without refinement not on
`USE_HW_DIV`. -/
def Obligations.ResultsDependOnTheirOwnFlagsOnly : Prop :=
  ∀ (cfg : Cfg) (h p : Bool) (r : Refine) (x y : Int),
    resultF { cfg with useHwDiv := h, refine := r, interp := p } 0x0 x y = resultF cfg 0x0 x y ∧
    recipQ { cfg with refine := r, interp := p } x = recipQ cfg x ∧
    expQ { cfg with useHwDiv := h, refine := r, interp := p } x = expQ cfg x ∧
    expsQ { cfg with useHwDiv := h, refine := r } x = expsQ cfg x ∧
    logQ { cfg with interp := p } x = logQ cfg x ∧
    log2Q { cfg with interp := p } x = log2Q cfg x ∧
    log10Q { cfg with interp := p } x = log10Q cfg x ∧
    (cfg.refine = .minimal →
      logQ { cfg with useHwDiv := h } x = logQ cfg x ∧
      log2Q { cfg with useHwDiv := h } x = log2Q cfg x ∧
      log10Q { cfg with useHwDiv := h } x = log10Q cfg x)

/-- R123, R124: the bisection of LOG, in every configuration: its start, the direction in which an oracle value below the
target or at or above it narrows the interval, its 16 rounds under `NEWTON` and 20 under `NONE`, and that the interval keeps
the target between the oracle's values at the ends it has moved. Under an `LN2_Q16` so large that low + high + 1 leaves 32
bits the sum is unreduced, which is the model's choice (log entry 19, DESIGN CHOICE). -/
def Obligations.BisectionNarrowsAroundTheTarget : Prop :=
  ∀ (cfg : Cfg) (m : Int),
    bisectInit cfg m =
      ⟨0, cfg.ln2Q16.toInt, if m < 98304 then m - 65536 else (cfg.ln2Q16.toInt + 1) / 2⟩ ∧
    (∀ i : Interval, expQ cfg i.mid < m → bisectStep cfg m i = ⟨i.mid, i.high, (i.mid + i.high + 1) / 2⟩) ∧
    (∀ i : Interval, m ≤ expQ cfg i.mid → bisectStep cfg m i = ⟨i.low, i.mid, (i.low + i.mid + 1) / 2⟩) ∧
    (∀ i : Interval, cfg.refine = .minimal → bisect cfg m i = ((bisectStep cfg m)^[20] i).mid) ∧
    (∀ i : Interval, cfg.refine = .newton → i.low ≤ i.mid → i.mid ≤ i.high →
      bisect cfg m i = ((bisectStep cfg m)^[16] i).mid) ∧
    (∀ (start : Interval) (n : Nat), ((bisectStep cfg m)^[n] start).brackets cfg m start)

/-- R125, R89: the Newton correction of LOG: inside the guard 0 < e < 4 · `ONE` it adds the quotient of m − e by e, of the
divider or of the division-free reciprocal, and outside it changes nothing. With the tables of 20_memory.md the guard
holds at every midpoint the bisection can reach. -/
def Obligations.NewtonCorrectsWithinItsGuard : Prop :=
  (∀ (cfg : Cfg) (m mid e : Int), expQ cfg mid = e →
    (0 < e → e < 262144 → newtonStep cfg m mid = mid +
      if cfg.useHwDiv = true then (BitVec.ofInt 32 (((m - e) * 65536 + e / 2) / e)).toInt
      else (BitVec.ofInt 32 (((m - e) * recipNr e + 32768) / 65536)).toInt) ∧
    (e ≤ 0 ∨ 262144 ≤ e → newtonStep cfg m mid = mid)) ∧
  (∀ (h p : Bool) (r : Refine) (mid : Int), 0 ≤ mid → mid ≤ 45426 →
    0 < expQ (Config.withFlags h r p) mid ∧ expQ (Config.withFlags h r p) mid < 262144)

/-! ### The host beside the block -/

/-- R23, R29: what the host drives: the listed edges first, and after them, without end, what it chooses from its memory
and the outputs it reads. The list and the host as uninterpreted functions are the model's choice (log entry 8). -/
def Obligations.HostDrivesEveryEdge : Prop :=
  (∀ (s : State) (e : Edge) (rest : List Edge), s.edges = e :: rest →
    step s = clockEdge e { s with edges := rest }) ∧
  (∀ s : State, s.edges = [] →
    step s = clockEdge (Config.hostDrives s.host (cmdReady s) (rspResult s))
      { s with host := Config.hostRemembers s.host (cmdReady s) (rspResult s) })
end

