-- ==== Sys2Proof/Laws/Arith.lean ====
section
/-! SUPPORT. The arithmetic primitives as arithmetic: what `s32` keeps, the shifts as floor and product, one equation per
round of each loop. -/

namespace Sys2Proof.Machine

/-- A value inside 32 bits is kept (00_scope.md R12). -/
theorem s32_of_fits {v : Int} (lo : MINV ≤ v) (hi : v ≤ MAXV) : s32 v = v := by
  rw [s32, BitVec.toInt_ofInt]
  exact Int.bmod_eq_of_le (by simpa using lo) (by norm_num at *; omega)

/-- Every narrowed value fits 32 bits. -/
theorem s32_fits (v : Int) : MINV ≤ s32 v ∧ s32 v ≤ MAXV := by
  have lo := BitVec.le_toInt (BitVec.ofInt 32 v)
  have hi := BitVec.toInt_lt (x := BitVec.ofInt 32 v)
  unfold s32
  norm_num at *
  omega

/-- Narrowing changes a value by a multiple of 2^32. -/
theorem s32_congr (v : Int) : ∃ k : Int, s32 v = v + k * 4294967296 := by
  refine ⟨-((v + 2147483648) / 4294967296), ?_⟩
  have fits := s32_fits v
  have same : s32 v % 4294967296 = v % 4294967296 := by
    rw [s32, BitVec.toInt_ofInt]
    exact Int.bmod_emod
  simp only [MINV, MAXV] at fits
  omega

/-- The word written, read back as a signed value (00_scope.md R13). -/
theorem toInt_toWord (v : Int) : (toWord v).toInt = s32 v := rfl

/-- An operand is a 32-bit signed value (30_encoding.md R62). -/
theorem operand_fits (w : Word) : MINV ≤ operand w ∧ operand w ≤ MAXV := by
  have lo := BitVec.le_toInt w
  have hi := BitVec.toInt_lt (x := w)
  unfold operand
  norm_num at *
  omega

/-- A right shift is floor division by a power of two (R12). -/
theorem shr_eq_floor (v : Int) (n : Nat) : shr v n = v / 2 ^ n := by
  rw [shr, Int.shiftRight_eq_div_pow]; norm_cast

/-- A left shift is a product with a power of two (R12). -/
theorem shl_eq_mul (v : Int) (n : Nat) : shl v n = v * 2 ^ n := Int.shiftLeft_eq v n

/-- The multiplier without its shift. -/
theorem mulQ_eq_narrowed_floor (a b : Int) : mulQ a b = s32 ((a * b + 32768) / 65536) := by
  rw [mulQ, shr_eq_floor]; norm_num

/-- One round of the halving loop. -/
theorem halveWhile_succ (limit : Int) (n : Nat) (v k : Int) :
    halveWhile limit (n + 1) v k = if limit ≤ v then halveWhile limit n (shr v 1) (k + 1) else (v, k) := rfl

/-- One round of the doubling loop. -/
theorem doubleWhile_succ (limit : Int) (n : Nat) (v k : Int) :
    doubleWhile limit (n + 1) v k = if v < limit then doubleWhile limit n (shl v 1) (k - 1) else (v, k) := rfl

/-- A halving loop that has nothing to do. -/
theorem halveWhile_of_lt {limit v : Int} (h : v < limit) (n : Nat) (k : Int) : halveWhile limit n v k = (v, k) := by
  cases n with
  | zero => rfl
  | succ n => rw [halveWhile_succ, if_neg (by omega)]

/-- A doubling loop that has nothing to do. -/
theorem doubleWhile_of_le {limit v : Int} (h : limit ≤ v) (n : Nat) (k : Int) : doubleWhile limit n v k = (v, k) := by
  cases n with
  | zero => rfl
  | succ n => rw [doubleWhile_succ, if_neg (by omega)]

/-- One round of the integer-power loop. -/
theorem integerPower_succ (e : Int) (n : Nat) (acc : Int) :
    integerPower e (n + 1) acc = integerPower e n (mulQ acc e) := rfl

/-- One index of the fraction scan. -/
theorem fractionScan_cons (cfg : Cfg) (f : Nat) (i : Fin 12) (rest : List (Fin 12)) (acc : Int) :
    fractionScan cfg f (i :: rest) acc =
      fractionScan cfg f rest (if f.testBit (16 - i.val) then mulQ acc (expTableRead cfg i) else acc) := rfl

end Sys2Proof.Machine
end

