-- ==== Sys2Proof/Laws/State.lean ====
section
/-! SUPPORT. One lemma per field of State for each update, so that no later proof unfolds a record update. -/

namespace Sys2Proof.Machine

section AcceptCommand
variable (c : Command) (s : State)
@[simp] theorem acceptCommand_cfg : (acceptCommand c s).cfg = s.cfg := rfl
@[simp] theorem acceptCommand_busy : (acceptCommand c s).busy = some c := rfl
@[simp] theorem acceptCommand_result : (acceptCommand c s).result = none := rfl
@[simp] theorem acceptCommand_edges : (acceptCommand c s).edges = s.edges := rfl
@[simp] theorem acceptCommand_wait : (acceptCommand c s).wait = Config.freeLatency s.cfg c s.draws := rfl
@[simp] theorem acceptCommand_host : (acceptCommand c s).host = s.host := rfl
@[simp] theorem acceptCommand_draws : (acceptCommand c s).draws = s.draws + 1 := rfl
end AcceptCommand

section CompleteWith
variable (w : Word) (s : State)
@[simp] theorem completeWith_cfg : (completeWith w s).cfg = s.cfg := rfl
@[simp] theorem completeWith_busy : (completeWith w s).busy = none := rfl
@[simp] theorem completeWith_result : (completeWith w s).result = some w := rfl
@[simp] theorem completeWith_edges : (completeWith w s).edges = s.edges := rfl
@[simp] theorem completeWith_wait : (completeWith w s).wait = s.wait := rfl
@[simp] theorem completeWith_host : (completeWith w s).host = s.host := rfl
@[simp] theorem completeWith_draws : (completeWith w s).draws = s.draws := rfl
end CompleteWith

section CompleteUnspecified
variable (c : Command) (s : State)
@[simp] theorem completeUnspecified_cfg : (completeUnspecified c s).cfg = s.cfg := rfl
@[simp] theorem completeUnspecified_busy : (completeUnspecified c s).busy = none := rfl
@[simp] theorem completeUnspecified_result : (completeUnspecified c s).result = some (nextFreeWord c s) := rfl
@[simp] theorem completeUnspecified_edges : (completeUnspecified c s).edges = s.edges := rfl
@[simp] theorem completeUnspecified_wait : (completeUnspecified c s).wait = s.wait := rfl
@[simp] theorem completeUnspecified_host : (completeUnspecified c s).host = s.host := rfl
@[simp] theorem completeUnspecified_draws : (completeUnspecified c s).draws = s.draws + 1 := rfl
end CompleteUnspecified

section ApplyReset
variable (s : State)
@[simp] theorem applyReset_cfg : (applyReset s).cfg = s.cfg := rfl
@[simp] theorem applyReset_busy : (applyReset s).busy = none := rfl
@[simp] theorem applyReset_result : (applyReset s).result = none := rfl
@[simp] theorem applyReset_edges : (applyReset s).edges = s.edges := rfl
@[simp] theorem applyReset_wait : (applyReset s).wait = s.wait := rfl
@[simp] theorem applyReset_host : (applyReset s).host = s.host := rfl
@[simp] theorem applyReset_draws : (applyReset s).draws = s.draws := rfl
end ApplyReset

section WaitOneEdge
variable (s : State)
@[simp] theorem waitOneEdge_cfg : (waitOneEdge s).cfg = s.cfg := rfl
@[simp] theorem waitOneEdge_busy : (waitOneEdge s).busy = s.busy := rfl
@[simp] theorem waitOneEdge_result : (waitOneEdge s).result = s.result := rfl
@[simp] theorem waitOneEdge_wait : (waitOneEdge s).wait = s.wait - 1 := rfl
@[simp] theorem waitOneEdge_edges : (waitOneEdge s).edges = s.edges := rfl
@[simp] theorem waitOneEdge_host : (waitOneEdge s).host = s.host := rfl
@[simp] theorem waitOneEdge_draws : (waitOneEdge s).draws = s.draws := rfl
end WaitOneEdge

section PopEdge
variable (s : State)
@[simp] theorem popEdge_cfg : (popEdge s).cfg = s.cfg := by unfold popEdge; split <;> rfl
@[simp] theorem popEdge_busy : (popEdge s).busy = s.busy := by unfold popEdge; split <;> rfl
@[simp] theorem popEdge_result : (popEdge s).result = s.result := by unfold popEdge; split <;> rfl
@[simp] theorem popEdge_wait : (popEdge s).wait = s.wait := by unfold popEdge; split <;> rfl
@[simp] theorem popEdge_edges : (popEdge s).edges = s.edges.tail := by unfold popEdge; split <;> simp_all
@[simp] theorem popEdge_draws : (popEdge s).draws = s.draws := by unfold popEdge; split <;> rfl
end PopEdge

section PresentCommand
variable (c : Command) (s : State)
@[simp] theorem presentCommand_cfg : (presentCommand c s).cfg = s.cfg := rfl
@[simp] theorem presentCommand_busy : (presentCommand c s).busy = some c := rfl
@[simp] theorem presentCommand_result : (presentCommand c s).result = none := rfl
@[simp] theorem presentCommand_wait : (presentCommand c s).wait = 0 := rfl
@[simp] theorem presentCommand_host : (presentCommand c s).host = s.host := rfl
@[simp] theorem presentCommand_edges : (presentCommand c s).edges = quietEdge :: s.edges := rfl
@[simp] theorem presentCommand_draws : (presentCommand c s).draws = s.draws := rfl
end PresentCommand

/-- The next edge is the head of a list that has one. -/
theorem nextEdge_cons {s : State} {e : Edge} {rest : List Edge} (h : s.edges = e :: rest) : nextEdge s = e := by
  simp [nextEdge, h]

/-- Taking the next edge off a list that has one. -/
theorem popEdge_cons {s : State} {e : Edge} {rest : List Edge} (h : s.edges = e :: rest) :
    popEdge s = { s with edges := rest } := by
  simp [popEdge, h]

/-- Once the list is used up the host drives the next edge (10_state.md R23, R29). -/
theorem nextEdge_nil {s : State} (h : s.edges = []) :
    nextEdge s = Config.hostDrives s.host (cmdReady s) (rspResult s) := by
  simp [nextEdge, h]

/-- Once the list is used up the host remembers what it reads (R23, R29). -/
theorem popEdge_nil {s : State} (h : s.edges = []) :
    popEdge s = { s with host := Config.hostRemembers s.host (cmdReady s) (rspResult s) } := by
  simp [popEdge, h]

end Sys2Proof.Machine
end

