-- ==== Sys2Proof/Laws/Exec.lean ====
section
/-! SUPPORT. What executing an instruction or completing a command can do, said once. -/

namespace Sys2Proof.Machine

/-- Executing any instruction is a COMPLETE, with a word that is determined or with a free one (10_state.md R31). -/
theorem exec_cases (i : Instr) (s : State) :
    (∃ w, exec i s = .next (completeWith w s)) ∨ ∃ c, exec i s = .next (completeUnspecified c s) := by
  cases i with
  | exp a =>
    by_cases h : 0 ≤ operand a
    · exact .inl ⟨_, if_pos h⟩
    · exact .inr ⟨_, if_neg h⟩
  | mul a b => exact .inl ⟨_, rfl⟩
  | recip a => exact .inl ⟨_, rfl⟩
  | exps a => exact .inl ⟨_, rfl⟩
  | log a => exact .inl ⟨_, rfl⟩
  | log2 a => exact .inl ⟨_, rfl⟩
  | log10 a => exact .inl ⟨_, rfl⟩

/-- The canonical form of a command that decodes is its instruction's encoding (30_encoding.md R62). -/
theorem canonicalForm_of_ok {c : Command} {i : Instr} (h : decodeCommand c = .ok i) : c.canonicalForm = encodeCommand i := by
  simp [Command.canonicalForm, h]

/-- A reserved command is its own canonical form. -/
theorem canonicalForm_of_error {c : Command} {e : DecodeError} (h : decodeCommand c = .error e) : c.canonicalForm = c := by
  simp [Command.canonicalForm, h]

/-- Completing any command is a COMPLETE. -/
theorem completeCommand_cases (c : Command) (s : State) :
    (∃ w, completeCommand c s = .next (completeWith w s)) ∨
      ∃ c', completeCommand c s = .next (completeUnspecified c' s) := by
  unfold completeCommand
  split
  · exact exec_cases _ s
  · exact .inr ⟨_, rfl⟩

end Sys2Proof.Machine
end

