-- ==== Sys2Proof/Laws/PerInstr.lean ====
section
/-! SUPPORT. Per instruction: the fields of its canonical command are where 30_encoding.md R60 and R61 put them. -/

namespace Sys2Proof.Laws.CanonicalFields

/-- The op code of the opcode table (R61). -/
def opCode : Instr → OpCode
  | .mul _ _ => 0x0
  | .recip _ => 0x1
  | .exp _ => 0x2
  | .exps _ => 0x3
  | .log _ => 0x4
  | .log2 _ => 0x5
  | .log10 _ => 0x6

/-- The canonical command of an instruction has the table's op code, is well formed and is canonical (R61, R62). -/
def Statement (i : Instr) : Prop :=
  (encodeCommand i).op = opCode i ∧ (encodeCommand i).opDefined = true ∧ (encodeCommand i).canonical = true

theorem mul (a b : Word) : Statement (.mul a b) := ⟨rfl, rfl, rfl⟩
theorem recip (a : Word) : Statement (.recip a) := ⟨rfl, rfl, rfl⟩
theorem exp (a : Word) : Statement (.exp a) := ⟨rfl, rfl, rfl⟩
theorem exps (a : Word) : Statement (.exps a) := ⟨rfl, rfl, rfl⟩
theorem log (a : Word) : Statement (.log a) := ⟨rfl, rfl, rfl⟩
theorem log2 (a : Word) : Statement (.log2 a) := ⟨rfl, rfl, rfl⟩
theorem log10 (a : Word) : Statement (.log10 a) := ⟨rfl, rfl, rfl⟩

end Sys2Proof.Laws.CanonicalFields
end

