-- ==== Sys2Proof/Laws/Step.lean ====
section
/-! SUPPORT. What a step can do, said once: RESET, ACCEPT, COMPLETE, or an edge at which nothing changes. -/

namespace Sys2Proof.Machine

/-- A step is the next edge applied to the state without it. -/
theorem step_eq (s : State) : step s = clockEdge (nextEdge s) (popEdge s) := rfl

/-- An edge with `rst` = 1. -/
theorem clockEdge_rst {e : Edge} (h : e.rst = true) (s : State) : clockEdge e s = .next (applyReset s) := by
  simp [clockEdge, h]

/-- An edge without reset at a ready block. -/
theorem clockEdge_ready {e : Edge} {s : State} (h : e.rst = false) (idle : s.busy = none) :
    clockEdge e s = .next (if e.cmdValid then acceptCommand e.command s else s) := by
  simp [clockEdge, h, idle]

/-- An edge without reset at a busy block. -/
theorem clockEdge_busy {e : Edge} {s : State} {c : Command} (h : e.rst = false) (busy : s.busy = some c) :
    clockEdge e s = if s.wait = 0 then completeCommand c s else .next (waitOneEdge s) := by
  simp [clockEdge, h, busy]

/-- The inversion of an edge: if it answers a next state, one of the abstract steps happened, or an edge of the latency of
the command in flight passed, or nothing happened at an idle block. -/
theorem clockEdge_cases {e : Edge} {s t : State} (h : clockEdge e s = .next t) :
    (e.rst = true ∧ t = applyReset s) ∨
    (e.rst = false ∧ s.busy = none ∧ e.cmdValid = true ∧ t = acceptCommand e.command s) ∨
    (e.rst = false ∧ (∃ c, s.busy = some c ∧ s.wait = 0 ∧ completeCommand c s = .next t)) ∨
    (e.rst = false ∧ (∃ c, s.busy = some c) ∧ s.wait ≠ 0 ∧ t = waitOneEdge s) ∨
    (e.rst = false ∧ s.busy = none ∧ e.cmdValid = false ∧ t = s) := by
  cases hr : e.rst with
  | true =>
    rw [clockEdge_rst hr] at h
    exact .inl ⟨rfl, (Host.Outcome.next.inj h).symm⟩
  | false =>
    cases hb : s.busy with
    | none =>
      rw [clockEdge_ready hr hb] at h
      have ht := (Host.Outcome.next.inj h).symm
      cases hv : e.cmdValid with
      | true => exact .inr (.inl ⟨rfl, rfl, rfl, by simpa [hv] using ht⟩)
      | false => exact .inr (.inr (.inr (.inr ⟨rfl, rfl, rfl, by simpa [hv] using ht⟩)))
    | some c =>
      rw [clockEdge_busy hr hb] at h
      by_cases hw : s.wait = 0
      · exact .inr (.inr (.inl ⟨rfl, c, rfl, hw, by simpa [hw] using h⟩))
      · exact .inr (.inr (.inr (.inl ⟨rfl, ⟨c, rfl⟩, hw, by simpa [hw] using (Eq.symm h)⟩)))

end Sys2Proof.Machine
end

