-- ==== Sys2Proof/Laws/Run.lean ====
section
/-! SUPPORT. Runs of several steps, and what a host sees happen in them. -/

namespace Sys2Proof.Machine

/-- The edge that was put there is the next one. -/
@[simp] theorem nextEdge_withNextEdge (e : Edge) (s : State) : nextEdge (withNextEdge e s) = e := rfl

/-- Another edge instead leaves what comes after it. -/
@[simp] theorem popEdge_withNextEdge (e : Edge) (s : State) : popEdge (withNextEdge e s) = popEdge s := rfl

/-- No step stops (60_exceptions.md R140). -/
theorem step_answers_next (s : State) : ∃ t, step s = .next t := by
  rw [step_eq]
  unfold clockEdge
  split
  · exact ⟨_, rfl⟩
  · split
    · exact ⟨_, rfl⟩
    · split
      · obtain ⟨w, h⟩ | ⟨c, h⟩ := completeCommand_cases _ (popEdge s) <;> exact ⟨_, h⟩
      · exact ⟨_, rfl⟩

/-- The first step's events come first. -/
theorem runEvents_of_step {s t : State} (h : step s = .next t) (k : Nat) :
    runEvents (k + 1) s = stepEvents s t ++ runEvents k t := by
  rw [runEvents, h]

/-- The first step of a run. -/
theorem runSteps_of_step {s t : State} (h : step s = .next t) (k : Nat) : runSteps (k + 1) s = runSteps k t := by
  rw [runSteps, h]

/-- One step of the host's run of any machine. -/
theorem coreRun_succ (M : Host.Core) (k : Nat) (s : M.State) :
    M.run (k + 1) s = match M.step s with
      | .next s' => M.run k s'
      | .fault r => .fault r
      | .refused r => .refused r := by
  cases h : M.step s <;> simp only [Host.Core.run, h]

/-- `runSteps` is the host's run of the machine. -/
theorem runSteps_eq_core_run (k : Nat) (s : State) : runSteps k s = Host.Core.run Sys2Proof.core k s := by
  induction k generalizing s with
  | zero => rfl
  | succ k ih =>
    refine Eq.trans ?_ (coreRun_succ Sys2Proof.core k s).symm
    rw [runSteps]
    cases hs : step s with
    | next s' =>
      have hs' : Sys2Proof.core.step s = .next s' := hs
      rw [hs']
      exact ih s'
    | fault r => exact nomatch r
    | refused r =>
      have hs' : Sys2Proof.core.step s = .refused r := hs
      rw [hs']
      rfl

/-- A run that answers a next state goes on from it. -/
theorem runSteps_add {k : Nat} {s t : State} (h : runSteps k s = .next t) (l : Nat) :
    runSteps (k + l) s = runSteps l t := by
  induction k generalizing s with
  | zero => cases h; rw [Nat.zero_add]
  | succ k ih =>
    rw [show k + 1 + l = (k + l) + 1 by omega]
    rw [runSteps] at h ⊢
    cases hs : step s with
    | next u => rw [hs] at h; exact ih h
    | fault r => rw [hs] at h; cases h
    | refused r => rw [hs] at h; cases h

end Sys2Proof.Machine
end

