-- ==== Sys2Proof/Tests/Slice0.lean ====
section
/-! SUPPORT. The model's own tests. Expected values come from spec/: the worked examples of the rules and the vectors of
95_test_vectors.md, named in each section. -/

namespace Sys2Proof.Tests
open Sys2Proof Sys2Proof.Machine

/-- The result an instruction leaves, from reset, in a configuration. -/
def resultIn (cfg : Cfg) (i : Instr) : Option Word :=
  match exec i { State.reset with cfg := cfg } with
  | .next t => t.result
  | .fault _ => none
  | .refused _ => none

/-- What a step answers, as a state. -/
def nextOf (s : State) : Option State :=
  match step s with
  | .next t => some t
  | .fault _ => none
  | .refused _ => none

/-- The reset state with a command in flight, its latency over, and the given edges to come. -/
def inFlight (c : Command) (edges : List Edge) : State := { State.reset with busy := some c, edges := edges }

/-- The reset state with the given edges to come. -/
def awaiting (edges : List Edge) : State := { State.reset with edges := edges }

/-- MUL 1.5, 2.5 as a command (S1). -/
def mulCommand : Command := ⟨0x0, 0x00018000, 0x00028000⟩

/-- LOG10 100.0 as a command (S4). -/
def log10Command : Command := ⟨0x6, 0x00640000, 0⟩

/-! ### WellFormed refuses -/

theorem test_wf_reserved_op_refused : (⟨0x7, 0, 0⟩ : Command).opDefined = false := by decide
theorem test_wf_last_op_accepted : (⟨0x6, 0, 0⟩ : Command).opDefined = true := by decide
theorem test_wf_nonzero_b_not_canonical : (⟨0x2, 0x00010000, 0xDEADBEEF⟩ : Command).canonical = false := by decide
theorem test_wf_exp_negative_breaks_precondition : (Instr.exp 0xFFFFFFFF).meetsPrecondition = false := by decide

/-! ### Decoding: words of 95_test_vectors.md, and the same as bits from the table's encoding strings -/

theorem test_decode_mul : decode 0x00001800000028000 = .ok (.mul 0x00018000 0x00028000) := by decide
theorem test_decode_recip : decode 0x1FFFB000000000000 = .ok (.recip 0xFFFB0000) := by decide
theorem test_decode_exp_ignores_b : decode 0x200010000DEADBEEF = .ok (.exp 0x00010000) := by decide
theorem test_decode_exps : decode 0x3FFFFD00000000000 = .ok (.exps 0xFFFFD000) := by decide
theorem test_decode_log : decode 0x400010000FFFFFFFF = .ok (.log 0x00010000) := by decide
theorem test_decode_log2 : decode 0x50008000000000000 = .ok (.log2 0x00080000) := by decide
theorem test_decode_log10 : decode 0x60064000000000000 = .ok (.log10 0x00640000) := by decide
theorem test_decode_reserved_by_name : decode 0x70000000000000000 = .error (.reservedOp 0x7) := by decide

/-- MUL bit by bit: op 0000, a = 1, b = 2. -/
theorem test_decode_mul_bits :
    decode 0b00000000000000000000000000000000000100000000000000000000000000000010 = .ok (.mul 1 2) := by decide

/-- LOG10 bit by bit: op 0110, a = 0x80000001, b = 0. -/
theorem test_decode_log10_bits :
    decode 0b01101000000000000000000000000000000100000000000000000000000000000000 = .ok (.log10 0x80000001) := by decide

/-- No two rows of the opcode table overlap: one mask, different patterns (R69). -/
theorem test_opcode_rows_do_not_overlap :
    opcodeTable.Pairwise (fun r r' => r.mask = r'.mask ∧ r.pattern ≠ r'.pattern) := by decide

/-! ### Tables (R43, R44: the spot values) -/

theorem test_exp_table_ends :
    expTableRead Config.cfgA 0 = 0x0002B7E1 ∧ expTableRead Config.cfgA 11 = 0x00010020 := by decide
theorem test_inv_exp_table_spots :
    invExpTableRead Config.cfgA 1 = 57835 ∧ invExpTableRead Config.cfgA 16 = 8869 ∧
      invExpTableRead Config.cfgA 40 = 442 ∧ invExpTableRead Config.cfgA 80 = 3 := by decide

/-! ### The instructions (V1 to V7) -/

theorem test_mul_tie_goes_up : resultIn Config.cfgA (.mul 0xFFFFFFFD 0x00008000) = some 0xFFFFFFFF := by decide
theorem test_mul_wraps : resultIn Config.cfgA (.mul 0x7FFFFFFF 0x7FFFFFFF) = some 0xFFFF0000 := by decide
theorem test_recip_division_free :
    resultIn Config.cfgA (.recip 0x00000064) = some 0x028F5C00 ∧
      resultIn Config.cfgA (.recip 0x00015C09) = some 0x0000BC4E := by decide +kernel
theorem test_recip_hardware_division :
    resultIn Config.cfgB (.recip 0x00018000) = some 0x0000AAAB ∧
      resultIn Config.cfgB (.recip 0x00000002) = some 0x80000000 := by decide +kernel
theorem test_exp_example_of_R102 : resultIn Config.cfgC (.exp 0x0001C000) = some 0x0005C12F := by decide +kernel
theorem test_exp_first_wrap : resultIn Config.cfgA (.exp 0x000A65C0) = some 0x8007DB16 := by decide +kernel
theorem test_exps_interpolates : resultIn Config.cfgA (.exps 0xFFFAF852) = some 0x000001AE := by decide +kernel
theorem test_exps_clamp_edge :
    resultIn Config.cfgC (.exps 0xFFF60001) = some 3 ∧ resultIn Config.cfgC (.exps 0xFFF60000) = some 0 := by
  decide +kernel
theorem test_log_flags_differ :
    resultIn Config.cfgA (.log 0x0000C1E4) = some 0xFFFFB8DD ∧
      resultIn Config.cfgB (.log 0x0000C1E4) = some 0xFFFFB8DE ∧
      resultIn Config.cfgC (.log 0x0000C1E4) = some 0xFFFFB8EE := by decide +kernel
theorem test_log_largest : resultIn Config.cfgA (.log 0x7FFFFFFF) = some 0x000A65BF := by decide +kernel
theorem test_log2_one_ulp_short : resultIn Config.cfgA (.log2 0x00080000) = some 0x0002FFFF := by decide +kernel
theorem test_log2_sentinel_unscaled : resultIn Config.cfgA (.log2 0xFFFFFFFF) = some 0x80000000 := by decide
theorem test_log10_of_hundred : resultIn Config.cfgB (.log10 0x00640000) = some 0x00020053 := by decide +kernel
theorem test_log10_tenth : resultIn Config.cfgC (.log10 0x0000199A) = some 0xFFFEFFDD := by decide +kernel

/-! ### Traces T1 and T5 -/

theorem test_trace_T1_bisection :
    bisectLoop Config.cfgA 89072 true 16 (bisectInit Config.cfgA 89072) = ⟨20127, 20128, 20128⟩ := by decide +kernel
theorem test_trace_T5_normalise : normalise 100 = (51200, -9) ∧ normalise 89097 = (44548, 1) := by decide +kernel

/-! ### The quotient of the Newton step (the examples of 40_fixed_point_core.md R89) and its result (T1) -/

theorem test_R89_quotients :
    quotQ Config.cfgB (-25) 89097 = -18 ∧ quotQ Config.cfgA (-25) 89097 = -18 ∧
      quotQ Config.cfgA (-25) 99297 = -17 ∧ quotQ Config.cfgB (-25) 99297 = -16 := by decide +kernel
theorem test_trace_T1_newton : newtonStep Config.cfgA 89072 20128 = 20110 := by decide +kernel

/-! ### Steps (S1 to S6) -/

theorem test_S1_accept :
    (nextOf (awaiting [offerEdge mulCommand])).map (fun t => (t.busy, t.result, t.edges)) =
      some (some mulCommand, none, []) := by
  decide
theorem test_S1_complete :
    (nextOf (inFlight mulCommand [quietEdge])).map (fun t => (t.busy, t.result)) = some (none, some 0x0003C000) := by decide
theorem test_S2_reset_abandons :
    nextOf (inFlight log10Command [{ offerEdge mulCommand with rst := true }]) = some State.reset := by decide
theorem test_S4_offer_while_busy_ignored :
    nextOf { inFlight log10Command [offerEdge mulCommand] with wait := 1 } = some (inFlight log10Command []) := by decide

/-- S6: the reserved command completes; the word is free, so only the other fields are tested. -/
theorem test_S6_reserved_completes :
    (nextOf (inFlight ⟨0x7, 0, 0⟩ [quietEdge])).map (fun t => (t.busy, t.result.isSome, t.draws)) = some (none, true, 1) := by
  decide

/-- The host interface: the word of LOG2 8.0 is run by the very next step after reset. -/
theorem test_withFetchWord_runs_first :
    (nextOf (State.reset.withFetchWord 72 0x50008000000000000)).map (fun t => (t.busy, t.result, t.edges)) =
      some (none, some 0x0002FFFF, []) := by decide +kernel

end Sys2Proof.Tests
end

