-- ==== Sys2Proof/Tests/Witnesses.lean ====
section
/-! SUPPORT. For each statement that has hypotheses, a concrete state and operands that meet all of them together; for a
statement of several clauses, one for each, at the ends of its range. -/

namespace Sys2Proof.Tests
open Sys2Proof Sys2Proof.Machine

/-- EXP −1, whose result is unspecified. -/
def expNegativeCommand : Command := ⟨0x2, 0xFFFFFFFF, 0⟩

/-- The first reserved command. -/
def reservedCommand : Command := ⟨0x7, 0, 0⟩

/-- The reset state showing a result. -/
def showing (w : Word) (edges : List Edge) : State := { State.reset with result := some w, edges := edges }

theorem witness_ResetEdgeClearsHandshake :
    (nextEdge (inFlight log10Command [resetEdge, quietEdge])).rst = true ∧
    runSteps (1 + 1) (inFlight log10Command [resetEdge, quietEdge]) = .next State.reset ∧
    ∀ (j : Nat) (u : State), 1 ≤ j → j ≤ 1 → runSteps j (inFlight log10Command [resetEdge, quietEdge]) = .next u →
      (nextEdge u).offers = false := by
  refine ⟨rfl, rfl, fun j u lo hi run => ?_⟩
  obtain rfl : j = 1 := by omega
  cases run
  rfl

theorem witness_CommandIsAcceptedOnlyWhenReady_accept :
    (nextEdge (awaiting [offerEdge mulCommand])).rst = false ∧ (awaiting [offerEdge mulCommand]).busy = none ∧
    (nextEdge (awaiting [offerEdge mulCommand])).cmdValid = true :=
  ⟨rfl, rfl, rfl⟩

theorem witness_CommandIsAcceptedOnlyWhenReady_busy :
    (inFlight log10Command [offerEdge mulCommand]).busy = some log10Command := rfl

theorem witness_CommandIsAcceptedOnlyWhenReady_ignored :
    (nextEdge (awaiting [quietEdge])).cmdValid = false ∧ (nextEdge (awaiting [resetEdge])).rst = true := ⟨rfl, rfl⟩

theorem witness_CompletionWritesTheResultFunction :
    ((inFlight mulCommand [quietEdge]).busy = some mulCommand ∧ (nextEdge (inFlight mulCommand [quietEdge])).rst = false) ∧
    { inFlight mulCommand [quietEdge] with wait := 1 }.wait ≠ 0 ∧
    ((inFlight mulCommand [quietEdge]).wait = 0 ∧ commandResult Config.cfgA mulCommand = some 245760) ∧
    ((inFlight expNegativeCommand [quietEdge]).busy = some expNegativeCommand ∧
      commandResult Config.cfgA expNegativeCommand = none) := by
  refine ⟨⟨rfl, rfl⟩, ?_, ⟨rfl, ?_⟩, rfl, ?_⟩ <;> decide

theorem witness_OutputsFollowTheStateAndTheResultIsHeld :
    busyExcludesValid (showing 7 [quietEdge]) = true ∧ (showing 7 [quietEdge]).result = some 7 ∧
    (nextEdge (showing 7 [quietEdge])).rst = false ∧ (nextEdge (showing 7 [quietEdge])).cmdValid = false ∧
    step (showing 7 [quietEdge]) = .next (showing 7 []) :=
  ⟨rfl, rfl, rfl, rfl, rfl⟩

theorem witness_OutputsFollowTheStateAndTheResultIsHeld_lost :
    (showing 7 [offerEdge mulCommand]).busy = none ∧ (nextEdge (showing 7 [offerEdge mulCommand])).rst = false ∧
    (nextEdge (showing 7 [offerEdge mulCommand])).cmdValid = true ∧
    step (showing 7 [offerEdge mulCommand]) = .next (acceptCommand mulCommand (showing 7 [])) :=
  ⟨rfl, rfl, rfl, rfl⟩

theorem witness_IdleBlockChangesNothing :
    (nextEdge (awaiting [quietEdge])).rst = false ∧ (nextEdge (awaiting [quietEdge])).cmdValid = false ∧
    (awaiting [quietEdge]).busy = none :=
  ⟨rfl, rfl, rfl⟩

theorem witness_StepsAreTheAbstractMachinesSteps_forward :
    step (awaiting [offerEdge mulCommand]) = .next (acceptCommand mulCommand State.reset) := rfl

theorem witness_StepsAreTheAbstractMachinesSteps_back :
    AbstractStep Config.cfgA (abstraction (inFlight mulCommand [])) ⟨none, some (toWord 245760)⟩ ∧
    ∀ c, (inFlight mulCommand []).busy = some c → commandResult Config.cfgA c ≠ none := by
  have defined : commandResult Config.cfgA mulCommand = some 245760 := by decide
  refine ⟨.complete mulCommand none 245760 defined, fun c busy => ?_⟩
  cases Option.some.inj busy
  simp [defined]

theorem witness_StepKeepsBusyExcludesValid :
    busyExcludesValid (inFlight mulCommand [quietEdge]) = true ∧
    step (inFlight mulCommand [quietEdge]) = .next (showing 0x0003C000 []) :=
  ⟨rfl, rfl⟩

theorem witness_ResetLeavesReadyWithoutResult :
    (nextEdge (showing 7 [resetEdge])).rst = true ∧ step (showing 7 [resetEdge]) = .next State.reset :=
  ⟨rfl, rfl⟩

theorem witness_NoStepChangesTablesOrConfiguration :
    step (inFlight mulCommand [quietEdge]) = .next (showing 0x0003C000 []) := rfl

/-- One edge of latency left, at which another command is offered in vain. -/
theorem witness_CommandInFlightCompletesUnlessReset :
    { inFlight log10Command [offerEdge mulCommand, quietEdge] with wait := 1 }.busy = some log10Command ∧
    ∀ (j : Nat) (u : State), j ≤ 1 →
      runSteps j { inFlight log10Command [offerEdge mulCommand, quietEdge] with wait := 1 } = .next u →
        (nextEdge u).rst = false := by
  refine ⟨rfl, fun j u hi run => ?_⟩
  obtain rfl | rfl : j = 0 ∨ j = 1 := by omega
  all_goals cases run; rfl

theorem witness_StepRunsTheDecodedInstruction :
    ((inFlight mulCommand [quietEdge]).busy = some mulCommand ∧
      decodeCommand mulCommand = .ok (.mul 0x00018000 0x00028000) ∧
      (nextEdge (inFlight mulCommand [quietEdge])).rst = false ∧ (inFlight mulCommand [quietEdge]).wait = 0) ∧
    decodeTableWord 72 0x60064000000000000 = some (.log10 0x00640000) := by
  refine ⟨⟨rfl, rfl, rfl, rfl⟩, ?_⟩; decide

theorem witness_ReservedOpCodesCompleteWithAnyWord :
    (7 ≤ reservedCommand.op.toNat ∧ 7 ≤ (⟨0xF, 0, 0⟩ : Command).op.toNat) ∧ log10Command.op.toNat < 7 ∧
    ((awaiting [offerEdge reservedCommand]).busy = none ∧
      nextEdge (awaiting [offerEdge reservedCommand]) = offerEdge reservedCommand) ∧
    ((inFlight reservedCommand [quietEdge]).busy = some reservedCommand ∧
      (nextEdge (inFlight reservedCommand [quietEdge])).rst = false ∧
      (inFlight reservedCommand [quietEdge]).wait = 0) := by
  refine ⟨⟨?_, ?_⟩, ?_, ⟨rfl, rfl⟩, rfl, rfl, rfl⟩ <;> decide

/-- An idle edge, then MUL accepted, its result shown, and a result it would be wrong to show. -/
theorem witness_EachResultIsItsOwnCommandsInOrder :
    (awaiting [quietEdge, offerEdge mulCommand]).busy = none ∧
    runEvents 2 (awaiting [quietEdge, offerEdge mulCommand]) = [.accepted mulCommand] ∧
    Event.reset ∉ runEvents 2 (awaiting [quietEdge, offerEdge mulCommand]) ∧
    runEvents 2 (inFlight mulCommand [quietEdge, quietEdge]) = [.shown 0x0003C000] ∧
    ¬ eachResultIsItsOwn Config.cfgA (some mulCommand) [.shown 0] := by
  refine ⟨rfl, rfl, ?_, rfl, fun own => ?_⟩
  · rw [show runEvents 2 (awaiting [quietEdge, offerEdge mulCommand]) = [.accepted mulCommand] from rfl]; decide
  · have wrong := own.1 245760 (by decide)
    revert wrong; decide

theorem witness_ResultsCarryNoHistory :
    State.reset.cfg = (showing 7 [quietEdge]).cfg ∧ (Instr.exp 0).meetsPrecondition = true :=
  ⟨rfl, by decide⟩

theorem witness_InstructionsWriteOnlyTheHandshake :
    (exec (.mul 0x00018000 0x00028000) State.reset = .next (showing 0x0003C000 []) ∧
      (Instr.mul 0x00018000 0x00028000).meetsPrecondition = true) ∧
    (exec (.exp 0x80000000) State.reset = .next (completeUnspecified ⟨0x2, 0x80000000, 0⟩ State.reset) ∧
      (Instr.exp 0x80000000).meetsPrecondition = false) := by
  refine ⟨⟨rfl, ?_⟩, rfl, ?_⟩ <;> decide

theorem witness_DecodeOfEncodeIsTheInstruction : (Instr.log10 0x80000001).wf = true := rfl

theorem witness_EncodeOfDecodeIsTheCanonicalWord :
    decode 0x200010000DEADBEEF = .ok (.exp 0x00010000) ∧ decode 0x00001800000028000 = .ok (.mul 0x00018000 0x00028000) := by
  decide

theorem witness_DecodingAgreesWithTheOpcodeTable :
    (⟨"LOG10", 0x60000000000000000, 0xF0000000000000000⟩ ∈ opcodeTable ∧
      (0x6FFFFFFFFFFFFFFFF : CommandWord) &&& 0xF0000000000000000 = 0x60000000000000000) ∧
    ∀ row ∈ opcodeTable, (0x70000000000000000 : CommandWord) &&& row.mask ≠ row.pattern := by
  decide

theorem witness_FieldBIsIgnoredByOneOperandCommands :
    (1 ≤ (0x1 : OpCode).toNat ∧ (0x1 : OpCode).toNat ≤ 6) ∧ (1 ≤ (0x6 : OpCode).toNat ∧ (0x6 : OpCode).toNat ≤ 6) ∧
    commandResult State.reset.cfg ⟨0x4, 0xFFFFFFFF, 5⟩ ≠ none := by
  decide

/-- 1 · 32768 is a tie, and MAXV · 1.0 the largest product that is kept here. -/
theorem witness_MulRoundsToNearestTiesUp :
    (-140737488388096 ≤ operand 1 * operand 32768 ∧ operand 1 * operand 32768 < 140737488322560) ∧
    (-140737488388096 ≤ operand 0x7FFFFFFF * operand 0x00010000 ∧
      operand 0x7FFFFFFF * operand 0x00010000 < 140737488322560) := by
  decide

theorem witness_RecipWritesTheReciprocal :
    (0 < (1 : Word).toInt ∧ normalise (1 : Word).toInt = (32768, -15)) ∧
    (0 < (0x00030000 : Word).toInt ∧ normalise (0x00030000 : Word).toInt = (49152, 2)) := by
  decide +kernel

theorem witness_ReciprocalNormalisesTheOperand :
    0 < operand 1 ∧ 0 < operand 0x7FFFFFFF ∧ normalise (operand 1) = (32768, -15) ∧
    normalise (operand 0x7FFFFFFF) = (65535, 15) := by
  decide +kernel

theorem witness_ReciprocalRoundsConverge :
    ((32768 : Int) ≤ 32768 ∧ (32768 : Int) ≤ 65535) ∧ ((32768 : Int) ≤ 65535 ∧ (65535 : Int) ≤ 65535) := by decide

/-- The quotient of the Newton step of trace T1 (R87): −25 / 89097. -/
theorem witness_QuotientRoundsToNearestTiesUp :
    0 < operand 89097 ∧ MINV ≤ (operand 0xFFFFFFE7 * 65536 + operand 89097 / 2) / operand 89097 ∧
    (operand 0xFFFFFFE7 * 65536 + operand 89097 / 2) / operand 89097 ≤ MAXV := by
  decide

theorem witness_ExpWritesTheBitSerialProduct : 0 ≤ (0 : Word).toInt ∧ 0 ≤ (0x7FFFFFFF : Word).toInt := by decide

theorem witness_ExpOfNegativeWritesAnyWord : (0xFFFFFFFF : Word).toInt < 0 ∧ (0x80000000 : Word).toInt < 0 := by decide

theorem witness_ExpIgnoresTheLowFiveBits : (0 : Int) ≤ 63 ∧ expQ Config.cfgA 63 = 65568 := by decide +kernel

theorem witness_ExpHasItsExactValues :
    ((0 : Int) ≤ 31 ∧ (31 : Int) ≤ 31) ∧ (1 ≤ (1 : Fin 12).val ∧ 1 ≤ (11 : Fin 12).val) := by decide

theorem witness_OracleValuesStayInRange :
    ((0 : Int) ≤ 45426 ∧ (45426 : Int) ≤ 65535) ∧ expQ (Config.withFlags false .newton true) 45426 = 131038 ∧
    expQ (Config.withFlags true .minimal false) 65535 = 178060 := by
  decide +kernel

theorem witness_ExpIncreasesOnTheUnitInterval :
    ((0 : Int) ≤ 31 ∧ (31 : Int) ≤ 32 ∧ (32 : Int) ≤ 65535) ∧ (31 : Int) / 32 < 32 / 32 := by decide

theorem witness_ExpsWritesTheTablePathOrExp :
    0 ≤ (0 : Word).toInt ∧ (0xFFF60000 : Word).toInt ≤ -655360 ∧
    ((8191 < 8192 ∧ (0xFFF60001 : Word).toInt < 0 ∧
      -(0xFFF60001 : Word).toInt = ((79 : Fin 80).val * 8192 + 8191 : Nat)) ∧
    ((0xFFFFFFFF : Word).toInt < 0 ∧ -(0xFFFFFFFF : Word).toInt = ((0 : Fin 80).val * 8192 + 1 : Nat))) := by
  decide

theorem witness_ExpsStaysBetweenTableEntries :
    ((-655360 : Int) < 0 ∧ MINV ≤ -655360) ∧
    ((-655359 : Int) < 0 ∧ (-655360 : Int) < -655359 ∧ (((79 : Fin 80).val : Int) * 8192 ≤ - -655359 ∧
      (- -655359 : Int) < (((79 : Fin 80).val : Int) + 1) * 8192)) ∧
    (- -8192 : Int) = ((1 : Fin 80).val : Int) * 8192 := by
  decide

theorem witness_DomainErrorsWriteTheirSentinels : (0 : Word).toInt ≤ 0 ∧ (0x80000000 : Word).toInt ≤ 0 := by decide

theorem witness_LogWritesTheReconstruction :
    reduceDomain (0x0002B7E1 : Word).toInt = (1, 89072) ∧ reduceDomain (1 : Word).toInt = (-16, 65536) := by
  decide +kernel

theorem witness_DomainReductionReachesOneToTwo :
    (0 < operand 1 ∧ (reduceDomain (operand 1)).1 ≤ 0) ∧
    (0 < operand 0x7FFFFFFF ∧ 0 ≤ (reduceDomain (operand 0x7FFFFFFF)).1) := by
  decide +kernel

theorem witness_BisectionKeepsItsInterval :
    (ONE ≤ (65536 : Int) ∧ (65536 : Int) ≤ 131071) ∧ (ONE ≤ (131071 : Int) ∧ (131071 : Int) ≤ 131071) ∧
    (⟨0, 45426, 0⟩ : Interval).ordered 45426 ∧ (⟨45426, 45426, 45426⟩ : Interval).ordered 45426 := by
  unfold Interval.ordered; decide

theorem witness_EarlyStopDoesNotChangeTheMidpoint :
    (⟨0, 45426, 23536⟩ : Interval).low ≤ (⟨0, 45426, 23536⟩ : Interval).mid ∧
    (⟨0, 45426, 23536⟩ : Interval).mid ≤ (⟨0, 45426, 23536⟩ : Interval).high := by
  decide

theorem witness_LogOfPowersOfTwoIsExact :
    30 ≤ 30 ∧ logQ (Config.withFlags true .newton false) (2 ^ 30) = 635964 := by
  decide +kernel

theorem witness_ReconstructionIsExact :
    ((-16 : Int) ≤ -16 ∧ (-16 : Int) ≤ 14 ∧ (-65536 : Int) ≤ 45443 ∧ (45443 : Int) ≤ 65536) ∧ (14 : Int) ≤ 14 := by decide

theorem witness_ResultsDependOnTheirOwnFlagsOnly : Config.cfgC.refine = .minimal := rfl

/-- The oracle at 0 is `ONE`: below the target 65537, and at the target 65536. -/
theorem witness_BisectionNarrowsAroundTheTarget :
    expQ Config.cfgA (⟨0, 45426, 0⟩ : Interval).mid < 65537 ∧ 65536 ≤ expQ Config.cfgA (⟨0, 45426, 0⟩ : Interval).mid ∧
    Config.cfgC.refine = .minimal ∧ Config.cfgA.refine = .newton ∧
    ((⟨0, 45426, 23536⟩ : Interval).low ≤ (⟨0, 45426, 23536⟩ : Interval).mid ∧
      (⟨0, 45426, 23536⟩ : Interval).mid ≤ (⟨0, 45426, 23536⟩ : Interval).high) := by
  decide +kernel

/-- Inside the guard (trace T1), and outside it above: the oracle at 2 · `ONE` gives more than 4 · `ONE`. -/
theorem witness_NewtonCorrectsWithinItsGuard :
    expQ Config.cfgA 20128 = 89097 ∧ 0 < (89097 : Int) ∧ (89097 : Int) < 262144 ∧
    262144 ≤ expQ Config.cfgA (2 * ONE) ∧ ((0 : Int) ≤ 45426 ∧ (45426 : Int) ≤ 45426) := by
  decide +kernel

theorem witness_HostDrivesEveryEdge :
    (awaiting [quietEdge]).edges = quietEdge :: [] ∧ State.reset.edges = [] := ⟨rfl, rfl⟩

end Sys2Proof.Tests
end

/-! SUPPORT. What results depend on: the word an instruction writes is that of the result function F of 30_encoding.md R63
and so carries no history (00_scope.md R14), and two configurations that agree on the fields an operation reads give it
the same result (R8). -/

namespace Sys2Proof.Machine

/-! ### The word an instruction writes -/

/-- Where F is specified on its canonical command, an instruction completes with F's value and leaves the rest alone. -/
theorem exec_of_commandResult {i : Instr} {s : State} {v : Int}
    (defined : commandResult s.cfg (encodeCommand i) = some v) : exec i s = .next (completeWith (toWord v) s) := by
  cases i with
  | exp a =>
    by_cases nonneg : 0 ≤ operand a
    · have value : expQ s.cfg (operand a) = v := Option.some.inj ((if_pos nonneg).symm.trans defined)
      exact value ▸ if_pos nonneg
    · exact nomatch (if_neg nonneg).symm.trans defined
  | mul a b => cases defined; rfl
  | recip a => cases defined; rfl
  | exps a => cases defined; rfl
  | log a => cases defined; rfl
  | log2 a => cases defined; rfl
  | log10 a => cases defined; rfl

/-- Within its precondition an instruction has a specified result in every configuration (41_exponential.md R102). -/
theorem commandResult_of_meetsPrecondition (cfg : Cfg) {i : Instr} (pre : i.meetsPrecondition = true) :
    ∃ v, commandResult cfg (encodeCommand i) = some v := by
  cases i with
  | exp a => exact ⟨_, if_pos (of_decide_eq_true pre)⟩
  | mul a b => exact ⟨_, rfl⟩
  | recip a => exact ⟨_, rfl⟩
  | exps a => exact ⟨_, rfl⟩
  | log a => exact ⟨_, rfl⟩
  | log2 a => exact ⟨_, rfl⟩
  | log10 a => exact ⟨_, rfl⟩

/-- Settles O15: the word is F's value, and F takes the configuration and the operands and no state. -/
theorem resultsCarryNoHistory : Obligations.ResultsCarryNoHistory := by
  unfold Obligations.ResultsCarryNoHistory
  intro i s t sameCfg pre
  obtain ⟨v, atS⟩ := commandResult_of_meetsPrecondition s.cfg pre
  have atT : commandResult t.cfg (encodeCommand i) = some v := sameCfg ▸ atS
  exact ⟨toWord v, exec_of_commandResult atS, exec_of_commandResult atT⟩

/-! ### The fields of the configuration an operation reads

Of two configurations `c` and `d`; the logarithm reads most of its fields through its oracle `expQ`. -/

section Agreement
variable {c d : Cfg}

/-- The reciprocal reads `USE_HW_DIV` (40_fixed_point_core.md R88). -/
theorem recipQ_congr (hwDiv : c.useHwDiv = d.useHwDiv) : recipQ c = recipQ d := by
  funext b
  rw [recipQ, recipQ, hwDiv]

/-- A quotient reads `USE_HW_DIV` (R89). -/
theorem quotQ_congr (hwDiv : c.useHwDiv = d.useHwDiv) : quotQ c = quotQ d := by
  funext a b
  rw [quotQ, quotQ, hwDiv]

/-- The fraction scan reads `EXP_TABLE` only (41_exponential.md R100). -/
theorem fractionScan_congr (table : c.expTable = d.expTable) (f : Nat) (order : List (Fin 12)) (acc : Int) :
    fractionScan c f order acc = fractionScan d f order acc := by
  induction order generalizing acc with
  | nil => rfl
  | cons i rest ih =>
    have entry : expTableRead c i = expTableRead d i := by simp only [expTableRead, table]
    rw [fractionScan_cons, fractionScan_cons, entry, ih]

/-- The exponential reads `EXP_TABLE` and `E_Q16` (R100), so no flag (R102). -/
theorem expQ_congr (table : c.expTable = d.expTable) (e : c.eQ16 = d.eQ16) : expQ c = expQ d := by
  funext x
  rw [expQ, expQ, e, fractionScan_congr table]

/-- The signed exponential reads, beside its oracle, `INV_EXP_TABLE` and `INTERP` (R104, R106). -/
theorem expsQ_congr (oracle : expQ c = expQ d) (table : c.invExpTable = d.invExpTable) (interp : c.interp = d.interp) :
    expsQ c = expsQ d := by
  funext x
  simp only [expsQ, expNegative, invExpTableRead, oracle, table, interp]

/-- An iteration of the bisection reads `expQ` only (42_logarithm.md R124). -/
theorem bisectStep_congr (oracle : expQ c = expQ d) : bisectStep c = bisectStep d := by
  funext m i
  rw [bisectStep, bisectStep, oracle]

/-- The bisection loop reads `expQ` only, once it is told whether to stop early (R124). -/
theorem bisectLoop_congr (oracle : expQ c = expQ d) (m : Int) (early : Bool) (n : Nat) (i : Interval) :
    bisectLoop c m early n i = bisectLoop d m early n i := by
  induction n generalizing i with
  | zero => rfl
  | succ n ih => rw [bisectLoop, bisectLoop, bisectStep_congr oracle, ih]

/-- The refinement reads `USE_HW_DIV` under `NEWTON` only (R120, R125). -/
theorem refineMid_congr (oracle : expQ c = expQ d) (refine : c.refine = d.refine)
    (hwDiv : d.refine = .newton → c.useHwDiv = d.useHwDiv) (m mid : Int) : refineMid c m mid = refineMid d m mid := by
  unfold refineMid
  rw [refine]
  cases selected : d.refine with
  | newton => simp only [newtonStep, oracle, quotQ_congr (hwDiv selected)]
  | minimal => rfl

/-- The logarithm reads `LN2_Q16`, `REFINE`, the oracle and, under `NEWTON` only, `USE_HW_DIV` (R120). -/
theorem logQ_congr (oracle : expQ c = expQ d) (ln2 : c.ln2Q16 = d.ln2Q16) (refine : c.refine = d.refine)
    (hwDiv : d.refine = .newton → c.useHwDiv = d.useHwDiv) : logQ c = logQ d := by
  funext y
  simp only [logQ, logReduced, reconstruct, bisect, bisectInit, ln2, refine, bisectLoop_congr oracle,
    refineMid_congr oracle refine hwDiv]

/-- The logarithm to base 2 reads, beside the natural one, `INV_LN2_Q16` (R129). -/
theorem log2Q_congr (log : logQ c = logQ d) (scale : c.invLn2Q16 = d.invLn2Q16) : log2Q c = log2Q d := by
  funext y
  rw [log2Q, log2Q, log, scale]

/-- The logarithm to base 10 reads, beside the natural one, `INV_LN10_Q16` (R130). -/
theorem log10Q_congr (log : logQ c = logQ d) (scale : c.invLn10Q16 = d.invLn10Q16) : log10Q c = log10Q d := by
  funext y
  rw [log10Q, log10Q, log, scale]

end Agreement

/-! ### The flags an operation does not depend on -/

/-- F for MUL is the multiplier, which takes no configuration (R63, R80). -/
theorem resultF_mul (cfg : Cfg) (A B : Int) : resultF cfg 0x0 A B = some (mulQ A B) := rfl

/-- The flags do not reach the exponential (R102). -/
theorem expQ_withoutFlags (cfg : Cfg) (h p : Bool) (r : Refine) :
    expQ { cfg with useHwDiv := h, refine := r, interp := p } = expQ cfg :=
  expQ_congr rfl rfl

/-- `INTERP` does not reach the logarithm (R120). -/
theorem logQ_withoutInterp (cfg : Cfg) (p : Bool) : logQ { cfg with interp := p } = logQ cfg :=
  logQ_congr (expQ_withoutFlags cfg _ p _) rfl rfl fun _ => rfl

/-- Without refinement `USE_HW_DIV` does not reach the logarithm either (R120). -/
theorem logQ_withoutHwDiv {cfg : Cfg} (unrefined : cfg.refine = .minimal) (h : Bool) :
    logQ { cfg with useHwDiv := h } = logQ cfg :=
  logQ_congr (expQ_withoutFlags cfg h _ _) rfl rfl fun refined => nomatch unrefined.symm.trans refined

/-- Settles O50: each operation reads only fields on which the two configurations agree. -/
theorem resultsDependOnTheirOwnFlagsOnly : Obligations.ResultsDependOnTheirOwnFlagsOnly := by
  unfold Obligations.ResultsDependOnTheirOwnFlagsOnly
  intro cfg h p r x y
  have mulSame := (resultF_mul { cfg with useHwDiv := h, refine := r, interp := p } x y).trans (resultF_mul cfg x y).symm
  have recipSame : recipQ { cfg with refine := r, interp := p } = recipQ cfg := recipQ_congr rfl
  have expsSame : expsQ { cfg with useHwDiv := h, refine := r } = expsQ cfg :=
    expsQ_congr (expQ_withoutFlags cfg h _ r) rfl rfl
  have logSame := logQ_withoutInterp cfg p
  refine ⟨mulSame, congrFun recipSame x, congrFun (expQ_withoutFlags cfg h p r) x, congrFun expsSame x,
    congrFun logSame x, congrFun (log2Q_congr logSame rfl) x, congrFun (log10Q_congr logSame rfl) x, fun unrefined => ?_⟩
  have logSame := logQ_withoutHwDiv unrefined h
  exact ⟨congrFun logSame x, congrFun (log2Q_congr logSame rfl) x, congrFun (log10Q_congr logSame rfl) x⟩

end Sys2Proof.Machine

/-! SUPPORT. The handshake of 10_state.md R29 to R35: what completing a command shows, the kinds of step there are, runs of
several steps, and what a host sees happen in them. -/

namespace Sys2Proof.Machine

/-! ### Completing a command -/

/-- F reads what the decoder keeps of a command: an ignored field `b` does not reach it (30_encoding.md R62). -/
theorem commandResult_of_ok {c : Command} {i : Instr} (decodes : decodeCommand c = .ok i) (cfg : Cfg) :
    commandResult cfg c = commandResult cfg (encodeCommand i) := by
  unfold decodeCommand at decodes
  split at decodes <;> cases decodes
  all_goals
    rename_i op
    simp only [commandResult, resultF, encodeCommand, op]
    rfl

/-- F is unspecified at a reserved op code (R64). -/
theorem commandResult_of_error {c : Command} {e : DecodeError} (reserved : decodeCommand c = .error e) (cfg : Cfg) :
    commandResult cfg c = none := by
  unfold decodeCommand at reserved
  split at reserved <;> cases reserved
  simp_all [commandResult, resultF]

/-- A command that decodes completes as its instruction runs. -/
theorem completeCommand_of_ok {c : Command} {i : Instr} (decodes : decodeCommand c = .ok i) (s : State) :
    completeCommand c s = exec i s := by
  simp [completeCommand, decodes]

/-- Where F is specified a command completes with F's value (R63). -/
theorem completeCommand_of_commandResult {c : Command} {s : State} {v : Int} (defined : commandResult s.cfg c = some v) :
    completeCommand c s = .next (completeWith (toWord v) s) := by
  cases decoded : decodeCommand c with
  | ok i =>
    rw [completeCommand_of_ok decoded]
    exact exec_of_commandResult (commandResult_of_ok decoded _ ▸ defined)
  | error e => exact nomatch (commandResult_of_error decoded _).symm.trans defined

/-- A completed command has made the block ready and shows its own result (10_state.md R31). -/
theorem completeCommand_shows {c : Command} {s t : State} (h : completeCommand c s = .next t) :
    ∃ w, t.busy = none ∧ t.result = some w ∧ t.cfg = s.cfg ∧ isResultOf s.cfg c w := by
  have own : ∀ v, commandResult s.cfg c = some v → t.result = some (toWord v) := fun v defined => by
    cases h.symm.trans (completeCommand_of_commandResult defined)
    rfl
  obtain ⟨w, done⟩ | ⟨c', done⟩ := completeCommand_cases c s <;> cases h.symm.trans done <;>
    exact ⟨_, rfl, rfl, rfl, fun v defined => Option.some.inj (own v defined)⟩

/-- Outside its precondition an instruction, which is then an EXP, completes with a free word (41_exponential.md R103). -/
theorem exec_of_not_meetsPrecondition {i : Instr} (unmet : i.meetsPrecondition = false) (s : State) :
    exec i s = .next (completeUnspecified (encodeCommand i) s) := by
  cases i with
  | exp a => exact if_neg (of_decide_eq_false unmet)
  | mul | recip | exps | log | log2 | log10 => cases unmet

/-- Settles O16: within its precondition an instruction is `completeWith`, outside it `completeUnspecified`. -/
theorem instructionsWriteOnlyTheHandshake : Obligations.InstructionsWriteOnlyTheHandshake := by
  unfold Obligations.InstructionsWriteOnlyTheHandshake
  intro i s t run
  cases pre : i.meetsPrecondition with
  | true =>
    obtain ⟨v, defined⟩ := commandResult_of_meetsPrecondition s.cfg pre
    cases run.symm.trans (exec_of_commandResult defined)
    simp [expTableRead, invExpTableRead]
  | false =>
    cases run.symm.trans (exec_of_not_meetsPrecondition pre s)
    simp [expTableRead, invExpTableRead]

/-! ### One step -/

/-- RESET (R32). -/
theorem step_of_rst {s : State} (rst : (nextEdge s).rst = true) : step s = .next (applyReset (popEdge s)) :=
  clockEdge_rst rst _

/-- A ready block's step without reset: ACCEPT if a command is offered (R30), else no change (60_exceptions.md R153). -/
theorem step_of_ready {s : State} (rst : (nextEdge s).rst = false) (idle : s.busy = none) :
    step s = .next (if (nextEdge s).cmdValid then acceptCommand (nextEdge s).command (popEdge s) else popEdge s) :=
  clockEdge_ready rst ((popEdge_busy s).trans idle)

/-- A busy block's step without reset: COMPLETE if the latency is over (R31), else an edge of it. -/
theorem step_of_busy {s : State} {c : Command} (rst : (nextEdge s).rst = false) (busy : s.busy = some c) :
    step s = if s.wait = 0 then completeCommand c (popEdge s) else .next (waitOneEdge (popEdge s)) := by
  rw [step_eq, clockEdge_busy rst ((popEdge_busy s).trans busy), popEdge_wait]

/-- What a step from `s` to `t` was to the handshake, and at what edge. -/
inductive StepKind (s t : State) : Prop where
  | reset (rst : (nextEdge s).rst = true) (after : t = applyReset (popEdge s))
  | accept (rst : (nextEdge s).rst = false) (idle : s.busy = none) (valid : (nextEdge s).cmdValid = true)
      (after : t = acceptCommand (nextEdge s).command (popEdge s))
  | complete (c : Command) (w : Word) (rst : (nextEdge s).rst = false) (busy : s.busy = some c) (ready : t.busy = none)
      (shows : t.result = some w) (sameCfg : t.cfg = s.cfg) (own : isResultOf s.cfg c w)
  | wait (c : Command) (rst : (nextEdge s).rst = false) (busy : s.busy = some c) (after : t = waitOneEdge (popEdge s))
  | idle (rst : (nextEdge s).rst = false) (idle : s.busy = none) (valid : (nextEdge s).cmdValid = false)
      (after : t = popEdge s)

/-- Every step is of one of the five kinds. -/
theorem stepKind_of_step {s t : State} (h : step s = .next t) : StepKind s t := by
  obtain ⟨rst, after⟩ | ⟨rst, idle, valid, after⟩ | ⟨rst, c, busy, -, done⟩ | ⟨rst, ⟨c, busy⟩, -, after⟩ |
    ⟨rst, idle, valid, after⟩ := clockEdge_cases (step_eq s ▸ h)
  · exact .reset rst after
  · exact .accept rst (popEdge_busy s ▸ idle) valid after
  · obtain ⟨w, ready, shows, sameCfg, own⟩ := completeCommand_shows done
    rw [popEdge_cfg] at sameCfg own
    exact .complete c w rst (popEdge_busy s ▸ busy) ready shows sameCfg own
  · exact .wait c rst (popEdge_busy s ▸ busy) after
  · exact .idle rst (popEdge_busy s ▸ idle) valid after

/-- No step changes the configuration (20_memory.md R41). -/
theorem step_keeps_cfg {s t : State} (h : step s = .next t) : t.cfg = s.cfg := by
  cases stepKind_of_step h with
  | complete c w rst busy ready shows sameCfg own => exact sameCfg
  | reset _ after | accept _ _ _ after | wait _ _ _ after | idle _ _ _ after => simp [after]

/-! ### The refinement and the invariant -/

/-- A step is an abstract step or leaves the abstract state as it is. -/
theorem abstractStep_of_step {s t : State} (h : step s = .next t) :
    abstraction t = abstraction s ∨ AbstractStep s.cfg (abstraction s) (abstraction t) := by
  cases stepKind_of_step h with
  | reset rst after => exact .inr (after ▸ .reset (abstraction s))
  | accept rst idle valid after =>
    rw [after, abstraction, abstraction, idle]
    exact .inr (.accept (nextEdge s).command s.result)
  | complete c w rst busy ready shows sameCfg own =>
    rw [abstraction, abstraction, busy, ready, shows]
    cases defined : commandResult s.cfg c with
    | some v => exact .inr (own v defined ▸ .complete c s.result v defined)
    | none => exact .inr (.completeAny c s.result w defined)
  | wait c rst busy after => simp [after, abstraction]
  | idle rst idle valid after => simp [after, abstraction]

/-- With the latency over an abstract step is taken at a reset edge, at an edge that offers its command, or at a quiet one. -/
theorem clockEdge_of_abstractStep {s : State} {q : AbstractState} (h : AbstractStep s.cfg (abstraction s) q)
    (latencyOver : s.wait = 0) (specified : ∀ c, s.busy = some c → q.result ≠ none → commandResult s.cfg c ≠ none) :
    ∃ e t, clockEdge e s = .next t ∧ abstraction t = q := by
  generalize before : abstraction s = p at h
  have busyIs : s.busy = p.busy := congrArg AbstractState.busy before
  cases h with
  | accept c r => exact ⟨offerEdge c, _, clockEdge_ready rfl busyIs, rfl⟩
  | complete c r v defined =>
    refine ⟨quietEdge, completeWith (toWord v) s, ?_, rfl⟩
    rw [clockEdge_busy rfl busyIs, if_pos latencyOver, completeCommand_of_commandResult defined]
  | completeAny c r w unspecified => exact absurd unspecified (specified c busyIs (Option.some_ne_none w))
  | reset p => exact ⟨resetEdge, _, clockEdge_rst rfl s, rfl⟩

/-- An abstract step is taken at some edge, with no latency left. -/
theorem step_of_abstractStep {s : State} {q : AbstractState} (h : AbstractStep s.cfg (abstraction s) q)
    (specified : ∀ c, s.busy = some c → q.result ≠ none → commandResult s.cfg c ≠ none) :
    ∃ (e : Edge) (n : Nat) (t : State), step (withNextEdge e { s with wait := n }) = .next t ∧ abstraction t = q := by
  obtain ⟨e, t, edge, after⟩ := clockEdge_of_abstractStep (s := popEdge { s with wait := 0 })
    (by simpa [abstraction] using h) (by simp) (by simpa using specified)
  exact ⟨e, 0, t, edge, after⟩

/-- Settles O6: each kind of step against the abstract steps, and an edge and a latency for each abstract step. -/
theorem stepsAreTheAbstractMachinesSteps : Obligations.StepsAreTheAbstractMachinesSteps := by
  unfold Obligations.StepsAreTheAbstractMachinesSteps
  exact ⟨fun _ _ => abstractStep_of_step, fun _ _ => step_of_abstractStep⟩

/-- Settles O7: a step that starts a command drops the result, and one that shows a result ends the command. -/
theorem stepKeepsBusyExcludesValid : Obligations.StepKeepsBusyExcludesValid := by
  unfold Obligations.StepKeepsBusyExcludesValid
  intro s t before h
  cases stepKind_of_step h with
  | complete c w rst busy ready shows sameCfg own => simp [busyExcludesValid, ready]
  | reset _ after | accept _ _ _ after => simp [busyExcludesValid, after]
  | wait _ _ _ after | idle _ _ _ after => simpa [busyExcludesValid, after] using before

/-! ### Runs -/

/-- No run stops (60_exceptions.md R140). -/
theorem runSteps_answers_next (k : Nat) (s : State) : ∃ t, runSteps k s = .next t := by
  induction k generalizing s with
  | zero => exact ⟨s, rfl⟩
  | succ k ih =>
    obtain ⟨u, first⟩ := step_answers_next s
    rw [runSteps_of_step first]
    exact ih u

/-- The last step of a run. -/
theorem runSteps_succ_of_runSteps {k : Nat} {s u t : State} (run : runSteps k s = .next u) (last : step u = .next t) :
    runSteps (k + 1) s = .next t := by
  rw [runSteps_add run, runSteps_of_step last]
  rfl

/-- What holds of the start and is kept by each of the first `k` steps of its run holds of the state after them; `P` may
speak of the number of steps done. -/
theorem runSteps_induction {P : Nat → State → Prop} {k : Nat} {s t : State} (start : P 0 s)
    (keep : ∀ j u v, j < k → runSteps j s = .next u → P j u → step u = .next v → P (j + 1) v)
    (run : runSteps k s = .next t) : P k t := by
  induction k generalizing t with
  | zero =>
    cases run
    exact start
  | succ k ih =>
    obtain ⟨u, before⟩ := runSteps_answers_next k s
    obtain ⟨v, last⟩ := step_answers_next u
    cases run.symm.trans (runSteps_succ_of_runSteps before last)
    have atU : P k u := ih (fun j u v lt => keep j u v (lt.trans k.lt_succ_self)) before
    exact keep k u t k.lt_succ_self before atU last

/-! ### Reset, accept and the outputs -/

/-- An idle block without a result stays so at an edge at which it accepts nothing. -/
theorem step_keeps_cleared {s t : State} (quiet : (nextEdge s).offers = false) (cleared : s.busy = none ∧ s.result = none)
    (h : step s = .next t) : t.busy = none ∧ t.result = none := by
  cases stepKind_of_step h with
  | reset rst after => simp [after]
  | accept rst idle valid after => simp [Edge.offers, rst, valid] at quiet
  | complete c w rst busy ready shows sameCfg own => simp [busy] at cleared
  | wait c rst busy after => simp [busy] at cleared
  | idle rst idle valid after => simpa [after] using cleared

/-- Settles O1: the reset step, and then an idle block without a result for as long as nothing is accepted. -/
theorem resetEdgeClearsHandshake : Obligations.ResetEdgeClearsHandshake := by
  unfold Obligations.ResetEdgeClearsHandshake
  intro s rst
  have first := step_of_rst rst
  refine ⟨first, fun k t run quiet => ?_⟩
  rw [runSteps_of_step first] at run
  refine runSteps_induction (P := fun _ u => u.busy = none ∧ u.result = none) ⟨rfl, rfl⟩ ?_ run
  intro j u v lt before cleared next
  have beforeFromS : runSteps (j + 1) s = .next u := (runSteps_of_step first j).trans before
  exact step_keeps_cleared (quiet (j + 1) u j.succ_pos lt beforeFromS) cleared next

/-- A busy block reads `rst` only, so whatever is offered to it has no effect (R30). -/
theorem clockEdge_busy_ignores_offer {s : State} {c : Command} (busy : s.busy = some c) (e : Edge) (v : Bool) (op : OpCode)
    (a b : Word) : clockEdge e s = clockEdge { e with cmdValid := v, cmdOp := op, cmdA := a, cmdB := b } s := by
  simp [clockEdge, busy]

/-- The payload ports are not read at an edge with reset or without `cmd_valid` (R30, R32). -/
theorem clockEdge_ignores_payload {e : Edge} (off : e.rst = true ∨ e.cmdValid = false) (op : OpCode) (a b : Word)
    (s : State) : clockEdge e s = clockEdge { e with cmdOp := op, cmdA := a, cmdB := b } s := by
  obtain rst | invalid := off
  · simp [clockEdge, rst]
  · simp [clockEdge, invalid]

/-- Settles O2: ACCEPT at a ready block, and the edges at which what is offered is not read. -/
theorem commandIsAcceptedOnlyWhenReady : Obligations.CommandIsAcceptedOnlyWhenReady := by
  unfold Obligations.CommandIsAcceptedOnlyWhenReady
  refine ⟨fun s rst idle valid => ?_, fun s c v op a b busy => ?_, fun s op a b off => ?_, fun e => ⟨rfl, rfl, rfl⟩⟩
  · have accepted := step_of_ready rst idle
    rw [if_pos valid] at accepted
    exact ⟨_, accepted, rfl, rfl, popEdge_cfg s⟩
  · exact clockEdge_busy_ignores_offer ((popEdge_busy s).trans busy) (nextEdge s) v op a b
  · exact clockEdge_ignores_payload off op a b (popEdge s)

/-- Settles O4: by the invariant a block that shows a result is idle, and without an offer it stays as it is. -/
theorem outputsFollowTheStateAndTheResultIsHeld : Obligations.OutputsFollowTheStateAndTheResultIsHeld := by
  unfold Obligations.OutputsFollowTheStateAndTheResultIsHeld
  refine ⟨fun s => ?_, fun s t w excludes shown rst invalid h => ?_, fun s t idle rst valid h => ?_⟩
  · exact ⟨Option.isNone_iff_eq_none, Option.isSome_iff_exists, fun w shown => shown⟩
  · have idle : s.busy = none := by simpa [busyExcludesValid, shown] using excludes
    cases h.symm.trans (step_of_ready rst idle)
    simp [rspValid, rspResult, invalid, shown]
  · cases h.symm.trans (step_of_ready rst idle)
    simp [cmdReady, rspValid, rspResult, valid]

/-- Settles O8: the fields of the reset state, and the reset step. -/
theorem resetLeavesReadyWithoutResult : Obligations.ResetLeavesReadyWithoutResult := by
  unfold Obligations.ResetLeavesReadyWithoutResult
  refine ⟨⟨rfl, rfl, rfl, rfl, rfl⟩, ⟨rfl, rfl, rfl, rfl, rfl, rfl⟩, fun s t rst h => ?_⟩
  cases h.symm.trans (step_of_rst rst)
  exact ⟨rfl, rfl, popEdge_cfg s⟩

/-- Settles O53: the two cases of the list. -/
theorem hostDrivesEveryEdge : Obligations.HostDrivesEveryEdge := by
  unfold Obligations.HostDrivesEveryEdge
  refine ⟨fun s e rest listed => ?_, fun s usedUp => ?_⟩
  · rw [step_eq, nextEdge_cons listed, popEdge_cons listed]
  · rw [step_eq, nextEdge_nil usedUp, popEdge_nil usedUp]

/-! ### The command in flight -/

/-- A table word that decodes is a command that does. -/
theorem decodeCommand_of_decodeTableWord {nbits w : Nat} {i : Instr} (h : decodeTableWord nbits w = some i) :
    decodeCommand (commandOfTableWord nbits w) = .ok i := by
  unfold decodeTableWord at h
  split at h
  · next decoded => rwa [Option.some.inj h] at decoded
  · cases h

/-- The completing step of a command that decodes (R31). -/
theorem step_of_decoded {s : State} {c : Command} {i : Instr} (busy : s.busy = some c) (decodes : decodeCommand c = .ok i)
    (rst : (nextEdge s).rst = false) (done : s.wait = 0) : step s = exec i (popEdge s) := by
  rw [step_of_busy rst busy, if_pos done, completeCommand_of_ok decodes]

/-- Settles O12: the second clause is the first one at the state in which the command is placed. -/
theorem stepRunsTheDecodedInstruction : Obligations.StepRunsTheDecodedInstruction := by
  unfold Obligations.StepRunsTheDecodedInstruction
  refine ⟨fun s c i => step_of_decoded, fun s nbits w i decodes => ?_⟩
  exact step_of_decoded (s := s.withFetchWord nbits w) rfl (decodeCommand_of_decodeTableWord decodes) rfl rfl

/-- Command `c` of state `s` is still in flight in `u`, after `j` edges of its latency. -/
structure InFlightAfter (s : State) (c : Command) (j : Nat) (u : State) : Prop where
  busy : u.busy = some c
  wait : u.wait + j = s.wait
  sameCfg : u.cfg = s.cfg

/-- Without a reset a command stays in flight through the edges of its latency. -/
theorem inFlightAfter_of_runSteps {s : State} {c : Command} (busy : s.busy = some c)
    (noReset : ∀ j u, j ≤ s.wait → runSteps j s = .next u → (nextEdge u).rst = false) {j : Nat} {u : State}
    (within : j ≤ s.wait) (run : runSteps j s = .next u) : InFlightAfter s c j u := by
  refine runSteps_induction ⟨busy, rfl, rfl⟩ (fun j' u v lt before inFlight next => ?_) run
  obtain ⟨busyU, waitU, cfgU⟩ := inFlight
  have rst := noReset j' u (by omega) before
  rw [step_of_busy rst busyU, if_neg (by omega)] at next
  cases next
  exact ⟨by simp [busyU], by simp; omega, by simp [cfgU]⟩

/-- Settles O11: the command is in flight up to the end of its latency, and the edge after it completes it. -/
theorem commandInFlightCompletesUnlessReset : Obligations.CommandInFlightCompletesUnlessReset := by
  unfold Obligations.CommandInFlightCompletesUnlessReset
  intro s c busy noReset
  refine ⟨fun j u within run => (inFlightAfter_of_runSteps busy noReset within run).busy, ?_⟩
  obtain ⟨u, run⟩ := runSteps_answers_next s.wait s
  obtain ⟨busyU, waitU, cfgU⟩ := inFlightAfter_of_runSteps busy noReset le_rfl run
  obtain ⟨t, last⟩ := step_answers_next u
  have done := last
  rw [step_of_busy (noReset s.wait u le_rfl run) busyU, if_pos (by omega)] at done
  obtain ⟨w, ready, shows, -, own⟩ := completeCommand_shows done
  rw [popEdge_cfg, cfgU] at own
  exact ⟨t, w, runSteps_succ_of_runSteps run last, ready, shows, own⟩

/-! ### What a host sees happen -/

/-- A reset abandons the command in flight, if any (70_reset_and_hazards.md R163). -/
theorem eachResultIsItsOwn_reset (cfg : Cfg) (inFlight : Option Command) (rest : List Event) :
    eachResultIsItsOwn cfg inFlight (.reset :: rest) = eachResultIsItsOwn cfg none rest := by
  cases inFlight <;> rfl

/-- The events of a step are in order before any that are in order after it. -/
theorem eachResultIsItsOwn_stepEvents_append {s t : State} (h : step s = .next t) {rest : List Event}
    (inOrder : eachResultIsItsOwn s.cfg t.busy rest) : eachResultIsItsOwn s.cfg s.busy (stepEvents s t ++ rest) := by
  cases stepKind_of_step h with
  | reset rst after =>
    subst after
    simpa [stepEvents, rst, eachResultIsItsOwn_reset] using inOrder
  | accept rst idle valid after =>
    subst after
    simpa [stepEvents, rst, cmdReady, idle, valid, eachResultIsItsOwn] using inOrder
  | complete c w rst busy ready shows sameCfg own =>
    rw [ready] at inOrder
    simpa [stepEvents, rst, cmdReady, rspResult, busy, ready, shows, eachResultIsItsOwn] using ⟨own, inOrder⟩
  | wait c rst busy after =>
    subst after
    simpa [stepEvents, rst, cmdReady, busy] using inOrder
  | idle rst idle valid after =>
    subst after
    simpa [stepEvents, rst, cmdReady, idle, valid] using inOrder

/-- In every run each result shown is that of the command in flight (R34). -/
theorem eachResultIsItsOwn_runEvents (s : State) (k : Nat) : eachResultIsItsOwn s.cfg s.busy (runEvents k s) := by
  induction k generalizing s with
  | zero => simp [runEvents, eachResultIsItsOwn]
  | succ k ih =>
    obtain ⟨t, h⟩ := step_answers_next s
    rw [runEvents_of_step h]
    exact eachResultIsItsOwn_stepEvents_append h (step_keeps_cfg h ▸ ih t)

/-- Without a reset the commands accepted, after the one in flight at the start, are those whose results are shown, in
order, and at most one that is pending. -/
theorem accepted_eq_answered_append_pending {cfg : Cfg} {inFlight : Option Command} {events : List Event}
    (own : eachResultIsItsOwn cfg inFlight events) (noReset : Event.reset ∉ events) :
    ∃ (answered : List Command) (pending : Option Command),
      inFlight.toList ++ acceptedCommands events = answered ++ pending.toList ∧
        List.Forall₂ (isResultOf cfg) answered (shownResults events) := by
  induction events generalizing inFlight with
  | nil => exact ⟨[], inFlight, by simp [acceptedCommands], .nil⟩
  | cons event rest ih =>
    have noResetAfter : Event.reset ∉ rest := fun mem => noReset (.tail event mem)
    cases event with
    | reset => exact absurd (.head rest) noReset
    | accepted c =>
      cases inFlight with
      | none => exact ih (inFlight := some c) own noResetAfter
      | some d => exact own.elim
    | shown w =>
      cases inFlight with
      | none => exact own.elim
      | some c =>
        obtain ⟨isOwn, ownAfter⟩ := own
        obtain ⟨answered, pending, split, results⟩ := ih ownAfter noResetAfter
        exact ⟨c :: answered, pending, congrArg (c :: ·) split, .cons isOwn results⟩

/-- Settles O14: the events of a run are in order, and lists in order match result by result. -/
theorem eachResultIsItsOwnCommandsInOrder : Obligations.EachResultIsItsOwnCommandsInOrder := by
  unfold Obligations.EachResultIsItsOwnCommandsInOrder
  refine ⟨eachResultIsItsOwn_runEvents, fun s k idle noReset => ?_⟩
  have own := eachResultIsItsOwn_runEvents s k
  rw [idle] at own
  obtain ⟨answered, pending, split, results⟩ := accepted_eq_answered_append_pending own noReset
  have accepted : acceptedCommands (runEvents k s) = answered ++ pending.toList := split
  have asMany := results.length_eq
  have atMostOne : pending.toList.length ≤ 1 := by cases pending <;> simp
  rw [accepted, List.length_append]
  refine ⟨by omega, by omega, fun n c w nthCommand nthResult => ?_⟩
  obtain ⟨lt, rfl⟩ := List.getElem?_eq_some_iff.mp nthResult
  rw [List.getElem?_append_left (asMany ▸ lt)] at nthCommand
  obtain ⟨lt', rfl⟩ := List.getElem?_eq_some_iff.mp nthCommand
  exact results.get lt' lt

end Sys2Proof.Machine

/-! ## 20_memory.md: the tables and the configuration -/

namespace Sys2Proof.Machine

/-- Settles O9: a step keeps the configuration, which holds both tables, so every read gives what it gave. -/
theorem noStepChangesTablesOrConfiguration : Obligations.NoStepChangesTablesOrConfiguration := by
  unfold Obligations.NoStepChangesTablesOrConfiguration
  intro s t h
  have sameCfg : t.cfg = s.cfg := step_keeps_cfg h
  rw [sameCfg]
  exact ⟨rfl, fun _ => rfl, fun _ => rfl⟩

end Sys2Proof.Machine

/-! ## 30_encoding.md: the layout of a command word (R60), the op-code map and its inversion (R61, R62, R64), the opcode
table row by row (R69), and the result a command in flight completes with (R63) -/

namespace Sys2Proof

/-! ### The fields of a command word -/

/-- The fields read from a word are those it was written with (R60). -/
@[simp] theorem commandOfWord_wordOfCommand (c : Command) : commandOfWord (wordOfCommand c) = c := by
  have opField : (wordOfCommand c).extractLsb' 64 4 = c.op := BitVec.extractLsb'_append_eq_left
  have lowBits : ∀ start, start + 32 ≤ 64 →
      (wordOfCommand c).extractLsb' start 32 = (c.a ++ c.b).extractLsb' start 32 :=
    fun _ within => BitVec.extractLsb'_append_eq_of_add_le within
  have aField := (lowBits 32 (by decide)).trans BitVec.extractLsb'_append_eq_left
  have bField := (lowBits 0 (by decide)).trans BitVec.extractLsb'_append_eq_right
  rw [commandOfWord, opField, aField, bField]

/-- A word is written with the fields read from it: the three fields are all its bits (R60). -/
@[simp] theorem wordOfCommand_commandOfWord (w : CommandWord) : wordOfCommand (commandOfWord w) = w := by
  have operands : (w.extractLsb' 32 32 ++ w.extractLsb' 0 32 : BitVec 64) = w.extractLsb' 0 64 :=
    BitVec.extractLsb'_append_extractLsb'_eq_extractLsb' rfl
  have whole : (w.extractLsb' 64 4 ++ w.extractLsb' 0 64 : BitVec 68) = w.extractLsb' 0 68 :=
    BitVec.extractLsb'_append_extractLsb'_eq_extractLsb' rfl
  calc wordOfCommand (commandOfWord w)
      = w.extractLsb' 64 4 ++ (w.extractLsb' 32 32 ++ w.extractLsb' 0 32 : BitVec 64) := rfl
    _ = w := by rw [operands, whole, BitVec.extractLsb'_eq_self]

/-- Two commands with the same word are the same command. -/
theorem wordOfCommand_inj {c d : Command} : wordOfCommand c = wordOfCommand d ↔ c = d :=
  ⟨fun same => by simpa using congrArg commandOfWord same, congrArg wordOfCommand⟩

/-- A bitwise AND of two words acts on each field by itself. -/
theorem wordOfCommand_and (c d : Command) :
    wordOfCommand c &&& wordOfCommand d = wordOfCommand ⟨c.op &&& d.op, c.a &&& d.a, c.b &&& d.b⟩ :=
  BitVec.and_append.trans (congrArg _ BitVec.and_append)

/-- A table word of at least 68 bits is read with all its bits (R60; log entry 15). -/
theorem commandOfTableWord_toNat {nbits : Nat} (wide : 68 ≤ nbits) (w : CommandWord) :
    commandOfTableWord nbits w.toNat = commandOfWord w := by
  have fits : w.toNat < 2 ^ nbits := w.isLt.trans_le (Nat.pow_le_pow_right two_pos wide)
  rw [commandOfTableWord, Nat.mod_eq_of_lt fits, BitVec.ofNat_toNat, BitVec.setWidth_eq]

/-! ### The op-code map -/

/-- Decoding the canonical command of an instruction gives the instruction back (R61). -/
theorem decodeCommand_encodeCommand (i : Instr) : decodeCommand (encodeCommand i) = .ok i := by
  cases i <;> rfl

/-- A reserved op code is rejected by name (R64). -/
theorem decodeCommand_of_reserved {c : Command} (reserved : 7 ≤ c.op.toNat) :
    decodeCommand c = .error (.reservedOp c.op) := by
  unfold decodeCommand
  split
  case h_8 => rfl
  all_goals omega

/-- Every other op code is that of an instruction, whatever the operands (R61, R64). -/
theorem decodeCommand_of_defined {c : Command} (defined : c.op.toNat < 7) : ∃ i, decodeCommand c = .ok i := by
  unfold decodeCommand
  interval_cases c.op.toNat <;> exact ⟨_, rfl⟩

/-- The decoder's only error names the op code (R64). -/
theorem decodeCommand_error {c : Command} {e : DecodeError} (rejected : decodeCommand c = .error e) :
    e = .reservedOp c.op := by
  obtain defined | reserved := lt_or_ge c.op.toNat 7
  · obtain ⟨i, decodes⟩ := decodeCommand_of_defined defined
    exact nomatch decodes.symm.trans rejected
  · exact Except.error.inj (rejected.symm.trans (decodeCommand_of_reserved reserved))

/-- The canonical command of the instruction a command decodes to is the command with an ignored field `b` cleared. -/
theorem encodeCommand_of_ok {c : Command} {i : Instr} (decodes : decodeCommand c = .ok i) :
    encodeCommand i = if c.op = 0 then c else { c with b := 0 } := by
  obtain ⟨op, a, b⟩ := c
  unfold decodeCommand at decodes
  split at decodes <;> cases decodes
  all_goals
    rename_i opIs
    obtain rfl : op = _ := (BitVec.toNat_eq_nat.mp opIs).2
    rfl

/-- Field `b` of a command that is no MUL is not decoded (R62). -/
theorem decodeCommand_ignores_b {op : OpCode} (notMul : op ≠ 0) (a b b' : Word) :
    decodeCommand ⟨op, a, b⟩ = decodeCommand ⟨op, a, b'⟩ := by
  unfold decodeCommand
  split
  case h_1 isMul => exact absurd (BitVec.eq_of_toNat_eq isMul) notMul
  all_goals simp [*]

/-- Settles O17: the fields read back are those written, and the op-code map undoes `encodeCommand`. -/
theorem decodeOfEncodeIsTheInstruction : Obligations.DecodeOfEncodeIsTheInstruction := by
  unfold Obligations.DecodeOfEncodeIsTheInstruction
  intro i _
  have fields : commandOfWord (encode i) = encodeCommand i := commandOfWord_wordOfCommand _
  have decodes : decode (encode i) = .ok i := (congrArg decodeCommand fields).trans (decodeCommand_encodeCommand i)
  refine ⟨decodes, ?_⟩
  rw [decodeTableWord, commandOfTableWord_toNat (by decide), fields, decodeCommand_encodeCommand]

/-- A word with field `b` cleared (R60). -/
theorem wordOfCommand_clear_b (w : CommandWord) :
    wordOfCommand { commandOfWord w with b := 0 } = w &&& 0xFFFFFFFFF00000000 := by
  have mask : (0xFFFFFFFFF00000000 : CommandWord) = wordOfCommand ⟨.allOnes 4, .allOnes 32, 0#32⟩ := by decide
  rw [mask]
  conv_rhs => rw [← wordOfCommand_commandOfWord w, wordOfCommand_and]
  simp only [BitVec.and_allOnes, BitVec.and_zero, BitVec.ofNat_eq_ofNat]

/-- Settles O18: the canonical command is the decoded one with an ignored field cleared, here read as words. -/
theorem encodeOfDecodeIsTheCanonicalWord : Obligations.EncodeOfDecodeIsTheCanonicalWord := by
  unfold Obligations.EncodeOfDecodeIsTheCanonicalWord
  intro w i decodes
  rw [encode, encodeCommand_of_ok decodes, apply_ite wordOfCommand, wordOfCommand_commandOfWord, wordOfCommand_clear_b]
  rfl

/-! ### The opcode table -/

/-- The row of the opcode table an instruction belongs to: its op code, and a mask over field `op` alone (R69). -/
def rowOf (i : Instr) : OpcodeRow :=
  ⟨mnemonic i, wordOfCommand ⟨(encodeCommand i).op, 0, 0⟩, wordOfCommand ⟨.allOnes 4, 0, 0⟩⟩

/-- The opcode table is the rows of the seven instructions; a row is the same for all operands. -/
theorem opcodeTable_eq : opcodeTable =
    [rowOf (.mul 0 0), rowOf (.recip 0), rowOf (.exp 0), rowOf (.exps 0), rowOf (.log 0), rowOf (.log2 0),
      rowOf (.log10 0)] := by
  decide

/-- The opcode table has a row for every instruction. -/
theorem rowOf_mem_opcodeTable (i : Instr) : rowOf i ∈ opcodeTable := by
  rw [opcodeTable_eq]
  cases i <;> simp [rowOf, mnemonic, encodeCommand]

/-- The opcode table has no other rows. -/
theorem exists_rowOf_of_mem_opcodeTable {row : OpcodeRow} (listed : row ∈ opcodeTable) : ∃ i, row = rowOf i := by
  simp only [opcodeTable_eq, List.mem_cons, List.not_mem_nil, or_false] at listed
  obtain h | h | h | h | h | h | h := listed <;> exact ⟨_, h⟩

/-- A word selects a row exactly when it has the row's op code (R69). -/
theorem selects_rowOf_iff (w : CommandWord) (i : Instr) :
    w &&& (rowOf i).mask = (rowOf i).pattern ↔ (commandOfWord w).op = (encodeCommand i).op := by
  have opOnly : w &&& (rowOf i).mask = wordOfCommand ⟨(commandOfWord w).op, 0, 0⟩ := by
    conv_lhs => rw [← wordOfCommand_commandOfWord w, rowOf, wordOfCommand_and]
    simp only [BitVec.and_allOnes, BitVec.and_zero, BitVec.ofNat_eq_ofNat]
  rw [opOnly, rowOf, wordOfCommand_inj]
  simp

/-- A command that decodes has the op code of its instruction (R61). -/
theorem op_of_ok {c : Command} {i : Instr} (decodes : decodeCommand c = .ok i) : c.op = (encodeCommand i).op := by
  rw [encodeCommand_of_ok decodes]
  split <;> rfl

/-- A command with the op code of an instruction decodes to one of the same mnemonic (R61). -/
theorem decodeCommand_of_op {c : Command} {j : Instr} (same : c.op = (encodeCommand j).op) :
    ∃ i, decodeCommand c = .ok i ∧ mnemonic i = mnemonic j := by
  obtain ⟨op, a, b⟩ := c
  obtain rfl : op = _ := same
  cases j <;> exact ⟨_, rfl, rfl⟩

/-- Settles O19: a word selects the row of the instruction it decodes to and no other. -/
theorem decodingAgreesWithTheOpcodeTable : Obligations.DecodingAgreesWithTheOpcodeTable := by
  unfold Obligations.DecodingAgreesWithTheOpcodeTable
  refine ⟨fun w row listed selects => ?_, fun w noRow => ?_⟩
  · obtain ⟨j, rfl⟩ := exists_rowOf_of_mem_opcodeTable listed
    exact decodeCommand_of_op ((selects_rowOf_iff w j).mp selects)
  · cases decoded : decode w with
    | ok i => exact absurd ((selects_rowOf_iff w i).mpr (op_of_ok decoded)) (noRow _ (rowOf_mem_opcodeTable i))
    | error e => rw [decodeCommand_error decoded]; rfl

end Sys2Proof

namespace Sys2Proof.Machine

/-! ### The command in flight -/

/-- Where F is unspecified a command completes with a free word for its canonical form (R63, R64; log entries 4, 5). -/
theorem completeCommand_of_unspecified {c : Command} {s : State} (unspecified : commandResult s.cfg c = none) :
    completeCommand c s = .next (completeUnspecified c.canonicalForm s) := by
  cases decoded : decodeCommand c with
  | ok i =>
    rw [completeCommand_of_ok decoded, canonicalForm_of_ok decoded]
    cases pre : i.meetsPrecondition with
    | true =>
      obtain ⟨v, defined⟩ := commandResult_of_meetsPrecondition s.cfg pre
      exact nomatch (defined.symm.trans (commandResult_of_ok decoded s.cfg).symm).trans unspecified
    | false => exact exec_of_not_meetsPrecondition pre s
  | error e => rw [completeCommand, decoded, canonicalForm_of_error decoded]

/-- The completing step of a command whose result is unspecified. -/
theorem step_of_unspecified {s : State} {c : Command} (busy : s.busy = some c) (rst : (nextEdge s).rst = false)
    (done : s.wait = 0) (unspecified : commandResult s.cfg c = none) :
    step s = .next { popEdge s with
      busy := none
      result := some (Config.freeWord s.cfg c.canonicalForm s.draws)
      draws := s.draws + 1 } := by
  rw [step_of_busy rst busy, if_pos done, completeCommand_of_unspecified (by rwa [popEdge_cfg])]
  simp [completeUnspecified, completeWith, nextFreeWord]

/-- Settles O3: an edge of the latency, and COMPLETE with F's value or with a free word. -/
theorem completionWritesTheResultFunction : Obligations.CompletionWritesTheResultFunction := by
  unfold Obligations.CompletionWritesTheResultFunction
  refine fun s c busy rst => ⟨fun waiting => ?_, fun done => ⟨fun v defined => ?_, fun unspecified => ?_⟩⟩
  · rw [step_of_busy rst busy, if_neg waiting, waitOneEdge, popEdge_wait]
  · rw [step_of_busy rst busy, if_pos done, completeCommand_of_commandResult (by rwa [popEdge_cfg])]
    rfl
  · exact step_of_unspecified busy rst done unspecified

/-- Settles O13: the decoder's two cases, ACCEPT, and COMPLETE with F unspecified. -/
theorem reservedOpCodesCompleteWithAnyWord : Obligations.ReservedOpCodesCompleteWithAnyWord := by
  unfold Obligations.ReservedOpCodesCompleteWithAnyWord
  refine ⟨fun c => decodeCommand_of_reserved, fun c => decodeCommand_of_defined, fun s c _ idle offered => ?_,
    fun s c reserved busy rst done => ?_⟩
  · have rst : (nextEdge s).rst = false := congrArg Edge.rst offered
    have accepted := step_of_ready rst idle
    rw [offered] at accepted
    exact ⟨_, accepted, rfl, rfl, popEdge_cfg s⟩
  · have rejected := decodeCommand_of_reserved reserved
    rw [step_of_unspecified busy rst done (commandResult_of_error rejected s.cfg), canonicalForm_of_error rejected]

/-! ### The ignored field -/

/-- F reads of a command what the decoder reads (R63). -/
theorem commandResult_congr {c d : Command} (same : decodeCommand c = decodeCommand d) (cfg : Cfg) :
    commandResult cfg c = commandResult cfg d := by
  cases decoded : decodeCommand d with
  | ok i => rw [commandResult_of_ok decoded, commandResult_of_ok (same.trans decoded)]
  | error e => rw [commandResult_of_error decoded, commandResult_of_error (same.trans decoded)]

/-- What may become of a command in flight depends on its result only (10_state.md R31, R32). -/
theorem abstractStep_congr {cfg : Cfg} {c d : Command} (same : commandResult cfg c = commandResult cfg d)
    {r : Option Word} {q : AbstractState} (h : AbstractStep cfg ⟨some c, r⟩ q) : AbstractStep cfg ⟨some d, r⟩ q := by
  cases h with
  | complete c r v defined => exact .complete d r v (same ▸ defined)
  | completeAny c r w unspecified => exact .completeAny d r w (same ▸ unspecified)
  | reset p => exact .reset _

/-- With a specified result commands of the same result complete alike (10_state.md R31). -/
theorem completeCommand_congr {c d : Command} {s : State} (same : commandResult s.cfg c = commandResult s.cfg d)
    (specified : commandResult s.cfg c ≠ none) : completeCommand c s = completeCommand d s := by
  obtain ⟨v, defined⟩ := Option.ne_none_iff_exists'.mp specified
  rw [completeCommand_of_commandResult defined, completeCommand_of_commandResult (same ▸ defined)]

/-- The canonical command of every instruction has an ignored field `b` cleared (R62). -/
theorem encodeCommand_canonical (i : Instr) : (encodeCommand i).canonical = true := by
  cases i <;> rfl

/-- Settles O20: the decoder ignores field `b`, and the rest depends on the command through the decoder. -/
theorem fieldBIsIgnoredByOneOperandCommands : Obligations.FieldBIsIgnoredByOneOperandCommands := by
  unfold Obligations.FieldBIsIgnoredByOneOperandCommands
  refine ⟨fun op a b b' lo _ => ?_, fun w => ?_, encodeCommand_canonical⟩
  · have notMul : op ≠ 0 := by rintro rfl; exact absurd lo (by decide)
    have decoding := decodeCommand_ignores_b notMul a b b'
    have result := commandResult_congr decoding
    exact ⟨decoding, result, fun cfg r q => ⟨abstractStep_congr (result cfg), abstractStep_congr (result cfg).symm⟩,
      fun s => completeCommand_congr (result s.cfg)⟩
  · rw [operand, BitVec.toInt_eq_toNat_cond]
    split <;> split <;> omega

/-- Settles O21: the decoder run on each word. -/
theorem exampleWordsDecode : Obligations.ExampleWordsDecode := by
  unfold Obligations.ExampleWordsDecode
  decide

end Sys2Proof.Machine

/-! ## 40_fixed_point_core.md: the multiplier and its rounding law (R80 to R83), the internal quotient (R87), the rounds
of the division-free reciprocal and their error (R85), its normalisation (R84), and RECIP (R88) -/

namespace Sys2Proof.Machine

/-! ### Narrowing -/

/-- Writing a value keeps the bits that narrowing keeps (00_scope.md R12, R13). -/
@[simp] theorem toWord_s32 (v : Int) : toWord (s32 v) = toWord v := BitVec.ofInt_toInt

/-- Narrowing keeps the remainder modulo 2^32 (R83). -/
theorem s32_emod (v : Int) : s32 v % 4294967296 = v % 4294967296 := by
  obtain ⟨k, h⟩ := s32_congr v
  omega

/-- An operand is in 32 bits already. -/
@[simp] theorem s32_operand (w : Word) : s32 (operand w) = operand w :=
  s32_of_fits (operand_fits w).1 (operand_fits w).2

/-! ### The multiplier -/

/-- The exact product of two operands is at most 2^62 either way (R82). -/
theorem operand_mul_fits (a b : Word) :
    -4611686018427387904 ≤ operand a * operand b ∧ operand a * operand b ≤ 4611686018427387904 := by
  have magnitude : ∀ w, |operand w| ≤ 2147483648 := fun w => by
    obtain ⟨lo, hi⟩ := operand_fits w
    simp only [MINV, MAXV] at lo hi
    exact abs_le.mpr ⟨lo, by omega⟩
  have product : |operand a * operand b| ≤ 2147483648 * 2147483648 := by
    rw [abs_mul]
    exact mul_le_mul (magnitude a) (magnitude b) (abs_nonneg _) (by norm_num)
  exact abs_le.mp product

/-- The rounded product fits 32 bits exactly in the range of R83. -/
theorem roundedProduct_fits_iff (p : Int) :
    (MINV ≤ (p + 32768) / 65536 ∧ (p + 32768) / 65536 ≤ MAXV) ↔ (-140737488388096 ≤ p ∧ p < 140737488322560) := by
  simp only [MINV, MAXV]
  omega

/-- In that range nothing is lost in narrowing (R83). -/
theorem mulQ_of_fits {a b : Int} (lo : -140737488388096 ≤ a * b) (hi : a * b < 140737488322560) :
    mulQ a b = (a * b + 32768) / 65536 := by
  obtain ⟨minv, maxv⟩ := (roundedProduct_fits_iff _).mpr ⟨lo, hi⟩
  rw [mulQ_eq_narrowed_floor, s32_of_fits minv maxv]

/-- In that range `mul` rounds to nearest, a half toward plus infinity (R81). -/
theorem mulQ_rounds {a b : Int} (lo : -140737488388096 ≤ a * b) (hi : a * b < 140737488322560) :
    -32768 < 65536 * mulQ a b - a * b ∧ 65536 * mulQ a b - a * b ≤ 32768 := by
  rw [mulQ_of_fits lo hi]
  omega

/-- A zero factor leaves the added half, which is shifted out (R80). -/
theorem mulQ_zero (a : Int) : mulQ a 0 = 0 := by
  rw [mulQ_eq_narrowed_floor, mul_zero]
  decide

/-- `mul` commutes (R80). -/
theorem mulQ_comm (a b : Int) : mulQ a b = mulQ b a := by
  rw [mulQ, mulQ, mul_comm]

/-- A factor `ONE` leaves the operand; the added half is shifted out (R80). -/
theorem mulQ_ONE (w : Word) : mulQ (operand w) ONE = operand w := by
  have floor : (operand w * ONE + 32768) / 65536 = operand w := by
    simp only [ONE]
    omega
  rw [mulQ_eq_narrowed_floor, floor, s32_operand]

/-- Settles O22: MUL completes with `mul`, whose narrowing does not change the word written. -/
theorem mulWritesTheRoundedProduct : Obligations.MulWritesTheRoundedProduct := by
  unfold Obligations.MulWritesTheRoundedProduct
  intro a b s
  have word : toWord (mulQ (operand a) (operand b)) = toWord ((operand a * operand b + 32768) / 65536) := by
    rw [mulQ_eq_narrowed_floor, toWord_s32]
  exact (exec_of_commandResult (i := .mul a b) rfl).trans (congrArg (Host.Outcome.next <| completeWith · s) word)

/-- Bits 47 to 16 of a 64-bit word are the low 32 bits of its signed value without its 16 low bits. -/
theorem extractLsb'_eq_toWord (x : BitVec 64) : x.extractLsb' 16 32 = toWord (x.toInt / 65536) := by
  apply BitVec.eq_of_toNat_eq
  simp only [toWord, BitVec.extractLsb'_toNat, BitVec.toNat_ofInt, BitVec.toInt_eq_toNat_cond,
    Nat.shiftRight_eq_div_pow]
  omega

/-- The 64-bit datapath does not overflow (R82). -/
theorem wideSum_toInt (a b : Word) :
    (a.signExtend 64 * b.signExtend 64 + 32768#64).toInt = operand a * operand b + 32768 := by
  obtain ⟨lo, hi⟩ := operand_mul_fits a b
  have wide : a.signExtend 64 * b.signExtend 64 + 32768#64 = BitVec.ofInt 64 (operand a * operand b + 32768) := by
    rw [BitVec.ofInt_add, BitVec.ofInt_mul]
    rfl
  rw [wide, BitVec.toInt_ofInt_eq_self (by decide) (by omega) (by omega)]

/-- Settles O23: the wide sum is exact, and its bits 47 to 16 are what shifting and narrowing keep. -/
theorem mulIsBits47To16OfTheWideSum : Obligations.MulIsBits47To16OfTheWideSum := by
  unfold Obligations.MulIsBits47To16OfTheWideSum
  refine fun a b => ⟨wideSum_toInt a b, ?_⟩
  rw [extractLsb'_eq_toWord, wideSum_toInt, mulQ_eq_narrowed_floor, toWord_s32]

/-- Settles O24: `mulQ_rounds` on operands. -/
theorem mulRoundsToNearestTiesUp : Obligations.MulRoundsToNearestTiesUp := by
  unfold Obligations.MulRoundsToNearestTiesUp
  exact fun a b lo hi => mulQ_rounds lo hi

/-- Settles O25: the range of the rounded product, what narrowing keeps of it, and the rule's examples run. -/
theorem mulWrapsExactlyOutsideTheRange : Obligations.MulWrapsExactlyOutsideTheRange := by
  unfold Obligations.MulWrapsExactlyOutsideTheRange
  refine ⟨fun a b => ?_, by decide⟩
  rw [mulQ_eq_narrowed_floor]
  exact ⟨roundedProduct_fits_iff _, (s32_fits _).1, (s32_fits _).2, s32_emod _⟩

/-- Settles O26: the facts about one factor, commuted for the other. -/
theorem mulHasZeroIdentityAndCommutes : Obligations.MulHasZeroIdentityAndCommutes := by
  unfold Obligations.MulHasZeroIdentityAndCommutes
  intro a b
  exact ⟨mulQ_zero _, (mulQ_comm _ _).trans (mulQ_zero _), mulQ_ONE a, (mulQ_comm _ _).trans (mulQ_ONE b),
    mulQ_comm _ _⟩

/-! ### The quotient -/

/-- The hardware quotient without its shifts (R87). -/
theorem divQ_eq_narrowed_floor (a b : Int) : divQ a b = s32 ((a * 65536 + b / 2) / b) := by
  rw [divQ, shl_eq_mul, shr_eq_floor]
  rfl

/-- Floor division of `p` plus half of `b` rounds p/b to nearest, a half toward plus infinity. -/
theorem floor_add_half_rounds (p : Int) {b : Int} (pos : 0 < b) :
    -b < 2 * (b * ((p + b / 2) / b) - p) ∧ 2 * (b * ((p + b / 2) / b) - p) ≤ b := by
  have division := Int.mul_ediv_add_emod (p + b / 2) b
  have nonneg := Int.emod_nonneg (p + b / 2) pos.ne'
  have below := Int.emod_lt_of_pos (p + b / 2) pos
  omega

/-- Settles O31: where the quotient fits, narrowing keeps it. -/
theorem quotientRoundsToNearestTiesUp : Obligations.QuotientRoundsToNearestTiesUp := by
  unfold Obligations.QuotientRoundsToNearestTiesUp
  intro a b pos minv maxv
  rw [divQ_eq_narrowed_floor, s32_of_fits minv maxv]
  exact floor_add_half_rounds _ pos

/-! ### The rounds of the division-free reciprocal

With D = 2^32 − bn · x, one round takes D to D²/2^32 up to the two roundings. -/

/-- How far `x` is from the reciprocal of `bn`, times `bn`: 2^32 − bn · x. -/
def defect (bn x : Int) : Int := 4294967296 - bn * x

/-- What the rounds keep (R85): `x` above 1.0, and the defect between −2^16, which the roundings of one round can reach,
and 2^30, the defect of the seed at the lower end of the operands. -/
structure NewtonRange (bn x : Int) : Prop where
  above : 65537 ≤ x
  lower : -65536 ≤ defect bn x
  upper : defect bn x ≤ 1073741824

/-- The seed (R84). -/
theorem reciprocalRounds_zero (bn : Int) : reciprocalRounds bn 0 = 131072 - bn := rfl

/-- One round more. -/
theorem reciprocalRounds_succ (bn : Int) (n : Nat) :
    reciprocalRounds bn (n + 1) = reciprocalRound bn (reciprocalRounds bn n) := rfl

/-- The seed's defect is a square. -/
theorem defect_seed (bn : Int) : defect bn (reciprocalRounds bn 0) = (65536 - bn) ^ 2 := by
  rw [reciprocalRounds_zero, defect]
  ring

section Rounds
variable {bn x : Int} (lo : 32768 ≤ bn) (hi : bn ≤ 65535)

/-- The first product of a round does not wrap and is near 1.0 (R85). -/
theorem NewtonRange.product_bounds (range : NewtonRange bn x) : 49152 ≤ mulQ bn x ∧ mulQ bn x ≤ 65537 := by
  obtain ⟨-, lower, upper⟩ := range
  simp only [defect] at lower upper
  rw [mulQ_of_fits (by omega) (by omega)]
  omega

include lo in
/-- The lower bound of the defect bounds `x`, near 2.0 at the lower end of the operands. -/
theorem NewtonRange.below (range : NewtonRange bn x) : x ≤ 131074 := by
  have lower := range.lower
  simp only [defect] at lower
  nlinarith

include lo hi in
/-- The seed is in range. -/
theorem newtonRange_seed : NewtonRange bn (reciprocalRounds bn 0) where
  above := by rw [reciprocalRounds_zero]; omega
  lower := by rw [defect_seed]; nlinarith
  upper := by rw [defect_seed]; nlinarith

/-- A round squares the defect, up to what its two products are off by. -/
theorem defect_reciprocalRound (bn x : Int) :
    4294967296 * defect bn (reciprocalRound bn x) =
      defect bn x ^ 2 + (65536 * mulQ bn x - bn * x) * (4294967296 - defect bn x) -
        65536 * bn * (65536 * reciprocalRound bn x - x * (131072 - mulQ bn x)) := by
  simp only [defect]
  ring

/-- Neither product of a round wraps (R85), so both are rounded to nearest (R81). -/
theorem NewtonRange.products_round (lo : 32768 ≤ bn) (range : NewtonRange bn x) :
    (-32768 < 65536 * mulQ bn x - bn * x ∧ 65536 * mulQ bn x - bn * x ≤ 32768) ∧
    (-32768 < 65536 * reciprocalRound bn x - x * (131072 - mulQ bn x) ∧
      65536 * reciprocalRound bn x - x * (131072 - mulQ bn x) ≤ 32768) := by
  obtain ⟨tLo, tHi⟩ := range.product_bounds
  have below := range.below lo
  obtain ⟨above, lower, upper⟩ := range
  simp only [defect] at lower upper
  refine ⟨mulQ_rounds (by omega) (by omega), mulQ_rounds ?_ ?_⟩ <;> simp only [ONE] <;> nlinarith

include lo hi in
/-- The roundings of a round take the defect down to −2^16 at most. -/
theorem NewtonRange.defect_round_ge (range : NewtonRange bn x) : -65536 ≤ defect bn (reciprocalRound bn x) := by
  obtain ⟨⟨r, -⟩, -, s⟩ := range.products_round lo
  have next := defect_reciprocalRound bn x
  obtain ⟨above, lower, upper⟩ := range
  generalize 65536 * mulQ bn x - bn * x = ρ at *
  generalize 65536 * reciprocalRound bn x - x * (131072 - mulQ bn x) = σ at *
  have first : -32768 * (4294967296 - defect bn x) ≤ ρ * (4294967296 - defect bn x) :=
    mul_le_mul_of_nonneg_right r.le (by omega)
  have second : bn * σ ≤ bn * 32768 := mul_le_mul_of_nonneg_left s (by omega)
  nlinarith [sq_nonneg (defect bn x + 16384)]

include lo in
/-- A round squares a bound on the defect; each of its two roundings adds half a unit at most. -/
theorem NewtonRange.defect_round_le (range : NewtonRange bn x) {M : Int} (large : 65536 ≤ M) (le : defect bn x ≤ M) :
    8589934592 * defect bn (reciprocalRound bn x) ≤ 2 * M ^ 2 + 4294967296 * (bn + 65537) := by
  obtain ⟨⟨-, r⟩, s, -⟩ := range.products_round lo
  have next := defect_reciprocalRound bn x
  obtain ⟨above, lower, upper⟩ := range
  generalize 65536 * mulQ bn x - bn * x = ρ at *
  generalize 65536 * reciprocalRound bn x - x * (131072 - mulQ bn x) = σ at *
  have square : defect bn x ^ 2 ≤ M ^ 2 := sq_le_sq' (by omega) le
  have first : ρ * (4294967296 - defect bn x) ≤ 32768 * (4294967296 - defect bn x) :=
    mul_le_mul_of_nonneg_right r (by omega)
  have second : bn * -32768 ≤ bn * σ := mul_le_mul_of_nonneg_left s.le (by omega)
  linarith

include lo hi in
/-- A round keeps the range; at 65535, where `x` is next to 1.0, this is too coarse (`reciprocalRounds_65535`). -/
theorem newtonRange_reciprocalRound (range : NewtonRange bn x) (notLast : bn ≠ 65535) :
    NewtonRange bn (reciprocalRound bn x) where
  lower := range.defect_round_ge lo hi
  upper := by
    have le := range.defect_round_le lo (by norm_num) range.upper
    omega
  above := by
    have start : defect bn x ≤ 65536 * (65536 - bn) := by
      simp only [defect]
      nlinarith [range.above]
    have le := range.defect_round_le lo (by omega) start
    have small : (65536 - bn) * (65536 - bn) ≤ 32768 * (65536 - bn) := mul_le_mul_of_nonneg_right (by omega) (by omega)
    by_contra fallen
    have product : bn * reciprocalRound bn x ≤ bn * 65536 := mul_le_mul_of_nonneg_left (by omega) (by omega)
    simp only [defect] at le
    have beforeLast : bn ≤ 65534 := by omega
    linarith
end Rounds

/-- At the upper end of the operands the seed stays (R84). -/
theorem reciprocalRounds_65535 (n : Nat) : reciprocalRounds 65535 n = 65537 := by
  induction n with
  | zero => rfl
  | succ n ih =>
    rw [reciprocalRounds_succ, ih]
    decide

/-- Every value of the rounds is in range (R85). -/
theorem newtonRange_rounds {bn : Int} (lo : 32768 ≤ bn) (hi : bn ≤ 65535) (n : Nat) :
    NewtonRange bn (reciprocalRounds bn n) := by
  by_cases last : bn = 65535
  · rw [last, reciprocalRounds_65535]
    exact newtonRange_seed (bn := 65535) (by norm_num) le_rfl
  · induction n with
    | zero => exact newtonRange_seed lo hi
    | succ n ih => exact newtonRange_reciprocalRound lo hi ih last

/-- The slowest case (R85): from 1.5 the rounds stay below 2.0. -/
theorem reciprocalRounds_32768_le : ∀ n < 3, reciprocalRounds 32768 (n + 1) ≤ 131070 := by decide

/-- No round ends above 131070 (R85): above the lower end of the operands the range says so. -/
theorem reciprocalRounds_le {bn : Int} (lo : 32768 ≤ bn) (hi : bn ≤ 65535) {n : Nat} (few : n < 3) :
    reciprocalRounds bn (n + 1) ≤ 131070 := by
  obtain rfl | above := lo.eq_or_lt
  · exact reciprocalRounds_32768_le n few
  · have lower := (newtonRange_rounds lo hi (n + 1)).lower
    simp only [defect] at lower
    nlinarith

/-- Each of the 256 operands next to 0.5 meets the bound of R85. The estimate of `defect_three_rounds_beyond` is too
coarse for them: the error at 32815 is 3.2693. -/
theorem defect_three_rounds_near_half : ∀ j < 256, 100 * defect (32768 + (j : Nat))
    (reciprocalRounds (32768 + (j : Nat)) 3) ≤ 327 * (32768 + (j : Nat)) := by
  decide +kernel

/-- From there on the defect of the seed is small enough to bound that of each round in turn. -/
theorem defect_three_rounds_beyond {bn : Int} (lo : 33024 ≤ bn) (hi : bn ≤ 65535) :
    100 * defect bn (reciprocalRounds bn 3) ≤ 327 * bn := by
  have near : 32768 ≤ bn := by omega
  have round (n : Nat) {M : Int} (large : 65536 ≤ M) (le : defect bn (reciprocalRounds bn n) ≤ M) :
      8589934592 * defect bn (reciprocalRounds bn (n + 1)) ≤ 2 * M ^ 2 + 4294967296 * (bn + 65537) :=
    (newtonRange_rounds near hi n).defect_round_le near large le
  have seed : defect bn (reciprocalRounds bn 0) ≤ 1057030144 := by
    rw [defect_seed]
    nlinarith
  have one : defect bn (reciprocalRounds bn 1) ≤ 260210178 := by
    have first : _ * defect bn (reciprocalRounds bn 1) ≤ _ := round 0 (by norm_num) seed
    omega
  have two : defect bn (reciprocalRounds bn 2) ≤ 15831000 := by
    have second : _ * defect bn (reciprocalRounds bn 2) ≤ _ := round 1 (by norm_num) one
    omega
  have third : _ * defect bn (reciprocalRounds bn 3) ≤ _ := round 2 (by norm_num) two
  omega

/-- After three rounds `x` falls short of the reciprocal by at most 3.27 (R85). -/
theorem defect_three_rounds {bn : Int} (lo : 32768 ≤ bn) (hi : bn ≤ 65535) :
    100 * defect bn (reciprocalRounds bn 3) ≤ 327 * bn := by
  obtain nearHalf | beyond := lt_or_ge bn 33024
  · obtain ⟨j, rfl⟩ := Int.le.dest lo
    exact defect_three_rounds_near_half j (by omega)
  · exact defect_three_rounds_beyond beyond hi

/-- Settles O30: the range kept by the rounds, and the defect after three. -/
theorem reciprocalRoundsConverge : Obligations.ReciprocalRoundsConverge := by
  unfold Obligations.ReciprocalRoundsConverge
  intro bn lo hi
  have range := newtonRange_rounds lo hi
  refine ⟨fun n few => ?_, ?_, ?_⟩
  · obtain ⟨tLo, tHi⟩ := (range n).product_bounds
    exact ⟨tLo, tHi, (range (n + 1)).above, reciprocalRounds_le lo hi few⟩
  · have lower := (range 3).lower
    rw [defect] at lower
    linarith
  · have upper := defect_three_rounds lo hi
    rw [defect] at upper
    linarith

/-! ### The normalisation -/

/-- The halving loop stops at the quotient by a power of two that is below its limit and not below half of it. -/
theorem halveWhile_eq {limit v : Int} {j fuel : Nat} (enough : j ≤ fuel) (nonneg : 0 ≤ v) (below : v / 2 ^ j < limit)
    (above : limit ≤ 2 * (v / 2 ^ j)) (k : Int) : halveWhile limit fuel v k = (v / 2 ^ j, k + j) := by
  induction j generalizing fuel v k with
  | zero => simpa using halveWhile_of_lt (by simpa using below) fuel k
  | succ j ih =>
    obtain ⟨fuel, rfl⟩ := Nat.exists_eq_add_of_le' (Nat.one_le_of_lt enough)
    have halved : v / 2 ^ (j + 1) = v / 2 / 2 ^ j := by rw [pow_succ', Int.ediv_ediv_of_nonneg (by norm_num)]
    rw [halved] at below above ⊢
    have shrinks : v / 2 / 2 ^ j ≤ v / 2 := Int.ediv_le_self _ (by omega)
    rw [halveWhile_succ, if_pos (by omega), shr_eq_floor, pow_one, ih (by omega) (by omega) below above, Nat.cast_succ,
      add_right_comm, add_assoc]

/-- The doubling loop stops at the product with a power of two that reaches its limit and not twice that. -/
theorem doubleWhile_eq {limit v : Int} {j fuel : Nat} (enough : j ≤ fuel) (nonneg : 0 ≤ v) (reached : limit ≤ v * 2 ^ j)
    (below : v * 2 ^ j < 2 * limit) (k : Int) : doubleWhile limit fuel v k = (v * 2 ^ j, k - j) := by
  induction j generalizing fuel v k with
  | zero => simpa using doubleWhile_of_le (by simpa using reached) fuel k
  | succ j ih =>
    obtain ⟨fuel, rfl⟩ := Nat.exists_eq_add_of_le' (Nat.one_le_of_lt enough)
    have doubled : v * 2 ^ (j + 1) = v * 2 * 2 ^ j := by rw [pow_succ', mul_assoc]
    rw [doubled] at reached below ⊢
    have grows : v * 2 ≤ v * 2 * 2 ^ j := le_mul_of_one_le_right (by omega) (one_le_pow₀ (by norm_num))
    rw [doubleWhile_succ, if_pos (by omega), shl_eq_mul, pow_one, ih (by omega) (by omega) reached below, Nat.cast_succ,
      sub_sub, add_comm 1]

/-- A word that some halvings bring into [0.5, 1.0) is normalised by them (R84). -/
theorem normalise_of_halved {b : Int} {j : Nat} (few : j ≤ 15) (nonneg : 0 ≤ b) (lo : 32768 ≤ b / 2 ^ j)
    (hi : b / 2 ^ j ≤ 65535) : normalise b = (b / 2 ^ j, (j : Int)) := by
  have halved : halveWhile ONE loopBound b 0 = (b / 2 ^ j, 0 + (j : Int)) :=
    halveWhile_eq (few.trans (by decide)) nonneg (by simp only [ONE]; omega) (by simp only [ONE]; omega) 0
  rw [normalise, halved, zero_add]
  exact doubleWhile_of_le lo _ _

/-- A word that some doublings bring into [0.5, 1.0) is normalised by them (R84). -/
theorem normalise_of_doubled {b : Int} {j : Nat} (few : j ≤ 15) (nonneg : 0 ≤ b) (lo : 32768 ≤ b * 2 ^ j)
    (hi : b * 2 ^ j ≤ 65535) : normalise b = (b * 2 ^ j, -(j : Int)) := by
  have grows : b ≤ b * 2 ^ j := le_mul_of_one_le_right nonneg (one_le_pow₀ (by norm_num))
  have halved : halveWhile ONE loopBound b 0 = (b, 0) := halveWhile_of_lt (by simp only [ONE]; omega) _ _
  rw [normalise, halved, doubleWhile_eq (few.trans (by decide)) nonneg lo (by omega), zero_sub]

/-- The normalisation of a positive operand: at most 15 halvings, or at least one and at most 15 doublings (R84). -/
theorem normalise_cases {b : Int} (pos : 0 < b) (fits : b ≤ MAXV) :
    (∃ j : Nat, j ≤ 15 ∧ 32768 ≤ b / 2 ^ j ∧ b / 2 ^ j ≤ 65535 ∧ normalise b = (b / 2 ^ j, (j : Int))) ∨
    (∃ j : Nat, 1 ≤ j ∧ j ≤ 15 ∧ 32768 ≤ b * 2 ^ j ∧ b * 2 ^ j ≤ 65535 ∧ normalise b = (b * 2 ^ j, -(j : Int))) := by
  obtain ⟨v, rfl⟩ := Int.eq_ofNat_of_zero_le pos.le
  have top := Nat.pow_log_le_self 2 (x := v) (by omega)
  have next := Nat.lt_pow_succ_log_self (b := 2) (by norm_num) v
  generalize Nat.log 2 v = n at top next
  obtain small | large := lt_or_ge n 15
  · obtain ⟨j, total⟩ := Nat.exists_eq_add_of_le small.le
    have scale : (2 : Int) ^ n * 2 ^ j = 32768 := by rw [← pow_add, ← total]; norm_num
    have lo : (2 : Int) ^ n * 2 ^ j ≤ v * 2 ^ j := mul_le_mul_of_nonneg_right (mod_cast top) (by positivity)
    have hi : (v : Int) * 2 ^ j < 2 ^ (n + 1) * 2 ^ j := mul_lt_mul_of_pos_right (mod_cast next) (by positivity)
    rw [scale] at lo
    rw [pow_succ', mul_assoc, scale] at hi
    exact .inr ⟨j, by omega, by omega, lo, by omega, normalise_of_doubled (by omega) pos.le lo (by omega)⟩
  · obtain ⟨j, rfl⟩ := Nat.exists_eq_add_of_le large
    have few : j ≤ 15 := by
      have : 2 ^ (15 + j) < 2 ^ 31 := by simp only [MAXV] at fits; omega
      have := (Nat.pow_lt_pow_iff_right (by norm_num)).mp this
      omega
    have top : (2 : Int) ^ (15 + j) ≤ v := mod_cast top
    have next : (v : Int) < 2 ^ (15 + j + 1) := mod_cast next
    have lo : 32768 ≤ (v : Int) / 2 ^ j := Int.le_ediv_of_mul_le (by positivity) (by rw [pow_add] at top; linarith)
    have hi : (v : Int) / 2 ^ j < 65536 :=
      Int.ediv_lt_of_lt_mul (by positivity) (by rw [pow_succ, pow_add] at next; linarith)
    exact .inl ⟨j, few, lo, by omega, normalise_of_halved few pos.le lo (by omega)⟩

/-- The division-free reciprocal of a positive word depends on its normalisation only (R84). -/
theorem recipNr_of_normalise {b bn s : Int} (pos : 0 < b) (normal : normalise b = (bn, s)) :
    recipNr b = applyShift (reciprocalRounds bn 3) s := by
  rw [recipNr, if_neg (by omega), normal]

/-- A right shift back drops bits, with no rounding (R84). -/
theorem applyShift_of_nonneg (x : Int) (j : Nat) : applyShift x j = x / 2 ^ j := by
  rw [applyShift, if_pos (Int.natCast_nonneg j), shr_eq_floor, Int.toNat_natCast]

/-- A left shift back keeps the low 32 bits (R84). -/
theorem applyShift_of_neg (x : Int) {j : Nat} (pos : 1 ≤ j) : applyShift x (-j) = s32 (x * 2 ^ j) := by
  rw [applyShift, if_neg (by omega), shl_eq_mul, neg_neg, Int.toNat_natCast]

/-- The division-free reciprocal of an operand from 0.5 up depends on the bits its normalisation keeps (R85). -/
theorem recipNr_of_kept_bits {b : Int} {j : Nat} (pos : 0 < b) (few : j ≤ 15) (lo : 32768 ≤ b / 2 ^ j)
    (hi : b / 2 ^ j ≤ 65535) : recipNr b = recipNr (b / 2 ^ j * 2 ^ j) := by
  have back : b / 2 ^ j * 2 ^ j / 2 ^ j = b / 2 ^ j := Int.mul_ediv_cancel _ (by positivity)
  have keptPos : 0 < b / 2 ^ j * 2 ^ j := mul_pos (by omega) (by positivity)
  have kept := normalise_of_halved (b := b / 2 ^ j * 2 ^ j) few keptPos.le (by rwa [back]) (by rwa [back])
  rw [back] at kept
  rw [recipNr_of_normalise pos (normalise_of_halved few pos.le lo hi), recipNr_of_normalise keptPos kept]

/-- Settles O29: the operand is halved or doubled; with a shift of 0 it is halved no times. -/
theorem reciprocalNormalisesTheOperand : Obligations.ReciprocalNormalisesTheOperand := by
  unfold Obligations.ReciprocalNormalisesTheOperand
  intro a pos
  obtain ⟨j, few, lo, hi, normal⟩ | ⟨j, once, few, lo, hi, normal⟩ := normalise_cases pos (operand_fits a).2
  · rw [normal]
    refine ⟨⟨lo, hi⟩, ⟨by omega, by omega⟩, fun unshifted => ?_, fun _ => ⟨rfl, recipNr_of_kept_bits pos few lo hi⟩⟩
    obtain rfl : j = 0 := by simpa using unshifted
    simp
  · rw [normal]
    refine ⟨⟨lo, hi⟩, ⟨by omega, by omega⟩, fun _ => by simp, fun halved => ?_⟩
    exact absurd halved (by simp only; omega)

/-! ### RECIP -/

/-- The word RECIP writes (R88); narrowing the hardware quotient does not change it. -/
theorem toWord_recipQ (cfg : Cfg) (b : Int) :
    toWord (recipQ cfg b) =
      if b ≤ 0 then 0x7FFFFFFF
      else if cfg.useHwDiv = true then toWord ((4294967296 + b / 2) / b)
      else toWord (recipNr b) := by
  rw [recipQ, apply_ite toWord, apply_ite toWord, divQ_eq_narrowed_floor, toWord_s32]
  rfl

/-- Settles O27: RECIP completes with that word, and `recip_nr` shifts back after three rounds. -/
theorem recipWritesTheReciprocal : Obligations.RecipWritesTheReciprocal := by
  unfold Obligations.RecipWritesTheReciprocal
  refine ⟨fun a s => ?_, fun a bn s pos normal => ?_, fun bn => ⟨reciprocalRounds_zero bn, reciprocalRounds_succ bn⟩⟩
  · exact (exec_of_commandResult (i := .recip a) rfl).trans
      (congrArg (Host.Outcome.next <| completeWith · s) (toWord_recipQ s.cfg (operand a)))
  · rw [recipNr_of_normalise pos normal, applyShift, shr_eq_floor, shl_eq_mul]
    rfl

/-- The hardware reciprocal of a positive operand is not the sentinel (R88): 1 and 2 wrap to 0 and `MINV`, and from 3 on
the quotient is smaller than the sentinel. -/
theorem divQ_ONE_ne_MAXV {b : Int} (pos : 0 < b) : divQ ONE b ≠ MAXV := by
  rw [divQ_eq_narrowed_floor]
  obtain rfl | rfl | three : b = 1 ∨ b = 2 ∨ 3 ≤ b := by omega
  · decide
  · decide
  · have nonneg : 0 ≤ (ONE * 65536 + b / 2) / b := by positivity
    have below : (ONE * 65536 + b / 2) / b < MAXV := Int.ediv_lt_of_lt_mul pos (by simp only [MAXV, ONE]; omega)
    rw [s32_of_fits (by simp only [MINV]; omega) below.le]
    exact below.ne

/-- An even value narrowed is not `MAXV`, which is odd. -/
theorem s32_two_mul_ne_MAXV (v : Int) : s32 (2 * v) ≠ MAXV := by
  obtain ⟨k, narrowed⟩ := s32_congr (2 * v)
  simp only [MAXV]
  omega

/-- The division-free reciprocal of a positive operand is not the sentinel (R88): shifted right it is smaller, and
shifted left it is even. -/
theorem recipNr_ne_MAXV {b : Int} (pos : 0 < b) (fits : b ≤ MAXV) : recipNr b ≠ MAXV := by
  obtain ⟨j, -, lo, hi, normal⟩ | ⟨j, once, -, -, -, normal⟩ := normalise_cases pos fits
  · have above := (newtonRange_rounds lo hi 3).above
    have below := (newtonRange_rounds lo hi 3).below lo
    have shrinks : reciprocalRounds (b / 2 ^ j) 3 / 2 ^ j ≤ reciprocalRounds (b / 2 ^ j) 3 :=
      Int.ediv_le_self _ (by omega)
    rw [recipNr_of_normalise pos normal, applyShift_of_nonneg]
    exact (shrinks.trans_lt (by simp only [MAXV]; omega)).ne
  · obtain ⟨i, rfl⟩ := Nat.exists_eq_add_of_le' once
    rw [recipNr_of_normalise pos normal, applyShift_of_neg _ once, pow_succ', mul_left_comm]
    exact s32_two_mul_ne_MAXV _

/-- Settles O28: the domain test answers the sentinel, and no quotient of a positive operand equals it. -/
theorem recipSentinelMeansDomainError : Obligations.RecipSentinelMeansDomainError := by
  unfold Obligations.RecipSentinelMeansDomainError
  refine fun cfg a => ⟨fun sentinel => ?_, fun domain => if_pos domain⟩
  by_contra positive
  have pos : 0 < operand a := by omega
  rw [recipQ, if_neg positive] at sentinel
  split at sentinel
  · exact divQ_ONE_ne_MAXV pos sentinel
  · exact recipNr_ne_MAXV pos (operand_fits a).2 sentinel

end Sys2Proof.Machine

/-! ## 41_exponential.md: the bit-serial exponential (R100 to R102) and EXP of a negative operand (R103), its growth on one
whole unit (R108), and the table path of the signed exponential (R104 to R106) -/

namespace Sys2Proof.Machine

/-! ### The loops of the exponential -/

/-- The integer part of an argument from 0 up (R100). -/
theorem integerPart_natCast (n : Nat) : integerPart n = n / 65536 := by
  rw [integerPart, shr_eq_floor]
  omega

/-- The fraction bits of an argument from 0 up are its 16 low bits (R100). -/
theorem fractionPart_natCast (n : Nat) : fractionPart n = n % 2 ^ 16 := by
  rw [fractionPart]
  omega

/-- A fraction bit is that bit of the argument (R100, R101). -/
theorem testBit_fractionPart_natCast (n : Nat) {k : Nat} (low : k < 16) : (fractionPart n).testBit k = n.testBit k := by
  rw [fractionPart_natCast, Nat.testBit_mod_two_pow, decide_eq_true low, Bool.true_and]

/-- The scan visits fraction bits only, none of them below bit 5 (R101). -/
theorem bit_of_mem_scanOrder : ∀ i ∈ scanOrder, 5 ≤ 16 - i.val ∧ 16 - i.val < 16 := by decide

/-- The integer-power loop as an iterate (R100). -/
theorem integerPower_eq_iterate (e : Int) (n : Nat) (acc : Int) :
    integerPower e n acc = (fun acc => mulQ acc e)^[n] acc := by
  induction n generalizing acc with
  | zero => rfl
  | succ n ih => rw [integerPower_succ, ih, Function.iterate_succ_apply]

/-- The fraction scan as a fold (R100). -/
theorem fractionScan_eq_foldl (cfg : Cfg) (f : Nat) (order : List (Fin 12)) (acc : Int) :
    fractionScan cfg f order acc =
      order.foldl (fun acc i => if f.testBit (16 - i.val) then mulQ acc (expTableRead cfg i) else acc) acc := by
  induction order generalizing acc with
  | nil => rfl
  | cons i rest ih => rw [fractionScan_cons, ih, List.foldl_cons]

/-- The fraction scan reads the bits of the indices it visits (R101). -/
theorem fractionScan_congr_bits (cfg : Cfg) {f g : Nat} {order : List (Fin 12)}
    (same : ∀ i ∈ order, f.testBit (16 - i.val) = g.testBit (16 - i.val)) (acc : Int) :
    fractionScan cfg f order acc = fractionScan cfg g order acc := by
  rw [fractionScan_eq_foldl, fractionScan_eq_foldl]
  exact List.foldl_ext _ _ _ fun acc i visited => by rw [same i visited]

/-- The exponential of an argument from 0 up, on the argument's own bits (R100). -/
theorem expQ_natCast (cfg : Cfg) (n : Nat) :
    expQ cfg n = fractionScan cfg n scanOrder (integerPower cfg.eQ16.toInt (n / 65536) ONE) := by
  rw [expQ, integerPart_natCast]
  exact fractionScan_congr_bits cfg
    (fun i visited => testBit_fractionPart_natCast n (bit_of_mem_scanOrder i visited).2) _

/-- EXP from 0 up completes with the exponential (R102). -/
theorem exec_exp_of_nonneg {a : Word} (nonneg : 0 ≤ operand a) (s : State) :
    exec (.exp a) s = .next (completeWith (toWord (expQ s.cfg (operand a))) s) :=
  if_pos nonneg

/-- An operand from 0 up is its own bits as a number (00_scope.md R12). -/
theorem operand_of_nonneg {a : Word} (nonneg : 0 ≤ operand a) : operand a = a.toNat := by
  have msb : a.msb = false := by rw [BitVec.msb_eq_toInt]; exact decide_eq_false (not_lt.mpr nonneg)
  exact BitVec.toInt_eq_toNat_of_msb msb

/-- Settles O32: the fraction bits of a word from 0 up are its own, and the loops are an iterate and a fold. -/
theorem expWritesTheBitSerialProduct : Obligations.ExpWritesTheBitSerialProduct := by
  unfold Obligations.ExpWritesTheBitSerialProduct
  intro a s nonneg
  rw [exec_exp_of_nonneg nonneg, operand_of_nonneg nonneg, expQ_natCast, integerPower_eq_iterate, fractionScan_eq_foldl]
  rfl

/-- Settles O33: outside its precondition EXP completes with the free word of its canonical command. -/
theorem expOfNegativeWritesAnyWord : Obligations.ExpOfNegativeWritesAnyWord := by
  unfold Obligations.ExpOfNegativeWritesAnyWord
  intro a s negative
  exact exec_of_not_meetsPrecondition (i := .exp a) (decide_eq_false (not_le.mpr negative)) s

/-- Clearing the five low bits leaves the integer part and the bits the scan visits (R101). -/
theorem expQ_clear_low_bits (cfg : Cfg) {x : Int} (nonneg : 0 ≤ x) : expQ cfg x = expQ cfg (x / 32 * 32) := by
  obtain ⟨n, rfl⟩ := Int.eq_ofNat_of_zero_le nonneg
  have cleared : (n : Int) / 32 * 32 = (n / 2 ^ 5 * 2 ^ 5 : Nat) := by norm_cast
  have integerSame : n / 2 ^ 5 * 2 ^ 5 / 65536 = n / 65536 := by omega
  rw [cleared, expQ_natCast, expQ_natCast, integerSame]
  refine fractionScan_congr_bits cfg (fun i visited => ?_) _
  have high := (bit_of_mem_scanOrder i visited).1
  rw [Nat.testBit_mul_two_pow, Nat.testBit_div_two_pow, Nat.sub_add_cancel high, decide_eq_true high, Bool.true_and]

/-- Settles O34: neither loop looks at them. -/
theorem expIgnoresTheLowFiveBits : Obligations.ExpIgnoresTheLowFiveBits := by
  unfold Obligations.ExpIgnoresTheLowFiveBits
  exact fun cfg _ nonneg => expQ_clear_low_bits cfg nonneg

/-- A scan that finds no bit set multiplies nothing (R101). -/
theorem fractionScan_of_no_bit (cfg : Cfg) {f : Nat} {order : List (Fin 12)}
    (clear : ∀ i ∈ order, f.testBit (16 - i.val) = false) (acc : Int) : fractionScan cfg f order acc = acc := by
  induction order with
  | nil => rfl
  | cons i rest ih =>
    rw [List.forall_mem_cons] at clear
    rw [fractionScan_cons, clear.1]
    exact ih clear.2

/-- A scan that finds the bit of one index set multiplies by that index's entry (R101). -/
theorem fractionScan_of_single_bit (cfg : Cfg) {i : Fin 12} {order : List (Fin 12)} (visited : i ∈ order)
    (once : order.Nodup) (acc : Int) :
    fractionScan cfg (2 ^ (16 - i.val)) order acc = mulQ acc (expTableRead cfg i) := by
  have bit (j : Fin 12) : (2 ^ (16 - i.val)).testBit (16 - j.val) = decide (i = j) := by
    rw [Nat.testBit_two_pow, decide_eq_decide, Fin.ext_iff]
    omega
  induction order with
  | nil => exact nomatch visited
  | cons j rest ih =>
    rw [List.nodup_cons] at once
    rw [fractionScan_cons, bit]
    obtain rfl | later := List.mem_cons.mp visited
    · rw [decide_eq_true rfl, if_pos rfl]
      refine fractionScan_of_no_bit cfg (fun k inRest => ?_) _
      rw [bit, decide_eq_false_iff_not]
      rintro rfl
      exact once.1 inRest
    · have other : i ≠ j := by rintro rfl; exact once.1 later
      rw [decide_eq_false other]
      exact ih later once.2

/-- The exponential of 0 is `ONE` (R108 (a)). -/
theorem expQ_zero (cfg : Cfg) : expQ cfg 0 = ONE := fractionScan_of_no_bit cfg (by simp [fractionPart]) _

/-- From `ONE` a product is its other factor (R80). -/
theorem mulQ_ONE_left (w : Word) : mulQ ONE w.toInt = w.toInt := (mulQ_comm _ _).trans (mulQ_ONE w)

/-- Settles O35: no bit counts below 32, `ONE` is one round of the integer loop, and the rest are single bits. -/
theorem expHasItsExactValues : Obligations.ExpHasItsExactValues := by
  unfold Obligations.ExpHasItsExactValues
  refine ⟨fun cfg x nonneg small => ?_, fun cfg => ?_, fun cfg i used => ?_, by decide +kernel⟩
  · have cleared : x / 32 * 32 = 0 := by omega
    rw [expQ_clear_low_bits cfg nonneg, cleared, expQ_zero]
  · have noFraction : fractionPart ONE = 0 := rfl
    rw [expQ, noFraction, fractionScan_of_no_bit cfg (by simp)]
    exact mulQ_ONE_left _
  · have single : ((2 : Int) ^ (16 - i.val)) = (2 ^ (16 - i.val) : Nat) := by norm_cast
    have noInteger : 2 ^ (16 - i.val) / 65536 = 0 :=
      Nat.div_eq_of_lt (Nat.pow_lt_pow_right (n := 16) (by norm_num) (by omega))
    have visited : i ∈ scanOrder := by revert i; decide
    rw [single, expQ_natCast, noInteger, fractionScan_of_single_bit cfg visited (by decide)]
    exact mulQ_ONE_left _

/-! ### The exponential on one whole unit -/

/-- The index before the last `m` of the scan (R101). -/
def indexBefore (m : Nat) : Fin 12 := ⟨11 - m, by omega⟩

/-- The last `m` indices of the scan, for the fraction bits from `m + 4` down to 5 (R101). -/
def lastIndices : Nat → List (Fin 12)
  | 0 => []
  | m + 1 => indexBefore m :: lastIndices m

/-- All eleven of them are the scan. -/
theorem lastIndices_eleven : lastIndices 11 = scanOrder := rfl

/-- The default entry of `EXP_TABLE` at that index (R43). -/
def entryBefore (m : Nat) : Int := expTableRead Config.cfgA (indexBefore m)

/-- 65536 times a bound on what the last `m` indices can make of `acc`. With no index left it is `acc` itself, which falls
short of the exact product `acc * entryBefore 0` by `32 * acc`; each index left takes up `2 * acc` of that room, for the
rounding of its product and of its entry. -/
def reach (m : Nat) (acc : Int) : Int := acc * (entryBefore m - 32 + 2 * m)

/-- Each entry is the square root of the one before, to within the room that `reach` leaves for rounding (R43). -/
theorem entryBefore_sq : ∀ m < 11, (2 * entryBefore m + 1) * (entryBefore m - 32 + 2 * m) ≤
    131072 * (entryBefore (m + 1) - 32 + 2 * (m + 1 : Nat)) := by
  decide

/-- The entries lie above `ONE` and grow toward the front (R43). -/
theorem entryBefore_bounds : ∀ m < 11,
    65568 ≤ entryBefore m ∧ entryBefore m ≤ entryBefore (m + 1) ∧ entryBefore (m + 1) ≤ 178145 := by
  decide

/-- What holds of the accumulator with the last `m` indices to come: no product of theirs can wrap. -/
structure InReach (m : Nat) (acc : Int) : Prop where
  lower : 65536 ≤ acc
  upper : reach m acc ≤ 2 ^ 34

section Scan
variable {m : Nat} {acc : Int} (notAll : m < 11)
include notAll

/-- The scan of the last `m + 1` indices looks at bit `m + 5` first (R100). -/
theorem fractionScan_lastIndices_succ (f : Nat) (acc : Int) :
    fractionScan Config.cfgA f (lastIndices (m + 1)) acc =
      fractionScan Config.cfgA f (lastIndices m) (if f.testBit (m + 5) then mulQ acc (entryBefore m) else acc) := by
  have bit : 16 - (indexBefore m).val = m + 5 := by simp only [indexBefore]; omega
  rw [lastIndices, fractionScan_cons, bit, entryBefore]

/-- The first product of the last `m + 1` indices does not wrap, so it is rounded to nearest (R81). -/
theorem InReach.product_rounds (range : InReach (m + 1) acc) :
    -32768 < 65536 * mulQ acc (entryBefore m) - acc * entryBefore m ∧
      65536 * mulQ acc (entryBefore m) - acc * entryBefore m ≤ 32768 := by
  obtain ⟨above, grows, below⟩ := entryBefore_bounds m notAll
  obtain ⟨lower, upper⟩ := range
  rw [reach] at upper
  push_cast at upper
  exact mulQ_rounds (by nlinarith) (by nlinarith)

/-- The first of the last `m + 1` indices, whether its bit is set or not, keeps the accumulator in reach and does not make
it smaller. -/
theorem InReach.step (range : InReach (m + 1) acc) (bit : Bool) {next : Int}
    (isNext : next = if bit then mulQ acc (entryBefore m) else acc) :
    acc ≤ next ∧ reach m next ≤ reach (m + 1) acc ∧ InReach m next := by
  obtain ⟨above, grows, below⟩ := entryBefore_bounds m notAll
  obtain ⟨roundedDown, roundedUp⟩ := range.product_rounds notAll
  have square := entryBefore_sq m notAll
  obtain ⟨lower, upper⟩ := range
  have bounds : acc ≤ next ∧ reach m next ≤ reach (m + 1) acc := by
    rw [reach, reach]
    cases bit with
    | false =>
      obtain rfl : next = acc := isNext
      exact ⟨le_refl _, mul_le_mul_of_nonneg_left (by omega) (by omega)⟩
    | true =>
      obtain rfl : next = mulQ acc (entryBefore m) := isNext
      have rounded : 131072 * mulQ acc (entryBefore m) ≤ acc * (2 * entryBefore m + 1) := by linarith
      exact ⟨by nlinarith, by nlinarith⟩
  exact ⟨bounds.1, bounds.2, lower.trans bounds.1, bounds.2.trans upper⟩

end Scan

/-- The last `m` indices do not make the accumulator smaller and do not take it out of its reach. -/
theorem InReach.scan {m : Nat} (atMost : m ≤ 11) {acc : Int} (range : InReach m acc) (f : Nat) :
    acc ≤ fractionScan Config.cfgA f (lastIndices m) acc ∧
      65536 * fractionScan Config.cfgA f (lastIndices m) acc ≤ reach m acc := by
  induction m generalizing acc with
  | zero =>
    have fullReach : reach 0 acc = 65536 * acc := mul_comm acc _
    exact ⟨le_refl acc, fullReach.ge⟩
  | succ m ih =>
    obtain ⟨larger, less, next⟩ := range.step atMost (f.testBit (m + 5)) rfl
    obtain ⟨lower, upper⟩ := ih (by omega) next
    rw [fractionScan_lastIndices_succ atMost]
    exact ⟨larger.trans lower, upper.trans less⟩

/-- A set bit outweighs all the bits after it. -/
theorem InReach.scan_lt_product {m : Nat} (notAll : m < 11) {acc : Int} (range : InReach (m + 1) acc) (f : Nat) :
    fractionScan Config.cfgA f (lastIndices m) acc < mulQ acc (entryBefore m) := by
  have skipped : InReach m acc := (range.step notAll false rfl).2.2
  have upper := (skipped.scan notAll.le f).2
  have product := (range.product_rounds notAll).1
  have lower := range.lower
  rw [reach] at upper
  have room : acc * (32 - 2 * m) ≥ 65536 * (32 - 2 * m) := mul_le_mul_of_nonneg_right lower (by omega)
  nlinarith

/-- The scan of the last `m` indices increases strictly with the number its bits spell. -/
theorem InReach.scan_lt_scan {m : Nat} (atMost : m ≤ 11) {acc : Int} (range : InReach m acc) {f g : Nat}
    (lt : f % 2 ^ (m + 5) / 32 < g % 2 ^ (m + 5) / 32) :
    fractionScan Config.cfgA f (lastIndices m) acc < fractionScan Config.cfgA g (lastIndices m) acc := by
  induction m generalizing acc with
  | zero => omega
  | succ m ih =>
    have weight : 2 ^ (m + 5) = 32 * 2 ^ m := (pow_add 2 m 5).trans (mul_comm _ _)
    have spelled (n : Nat) : n % 2 ^ (m + 1 + 5) = n % 2 ^ (m + 5) + 32 * (2 ^ m * (n.testBit (m + 5)).toNat) := by
      rw [Nat.toNat_testBit, add_right_comm, Nat.mod_pow_succ, ← mul_assoc, ← weight]
    rw [spelled, spelled] at lt
    rw [fractionScan_lastIndices_succ atMost, fractionScan_lastIndices_succ atMost]
    obtain same | ⟨fClear, gSet⟩ | ⟨fSet, gClear⟩ : f.testBit (m + 5) = g.testBit (m + 5) ∨
        (f.testBit (m + 5) = false ∧ g.testBit (m + 5) = true) ∨
        (f.testBit (m + 5) = true ∧ g.testBit (m + 5) = false) := by
      cases f.testBit (m + 5) <;> cases g.testBit (m + 5) <;> decide
    · rw [same] at lt ⊢
      exact ih (by omega) (range.step atMost (g.testBit (m + 5)) rfl).2.2 (by omega)
    · rw [fClear, gSet]
      have next := (range.step atMost true rfl).2.2
      exact (range.scan_lt_product atMost f).trans_le (next.scan (by omega) g).1
    · have gRest : g % 2 ^ (m + 5) < 2 ^ (m + 5) := Nat.mod_lt _ (by positivity)
      simp only [fSet, gClear, Bool.toNat_true, Bool.toNat_false] at lt
      omega

/-- No flag reaches the exponential (R102). -/
theorem expQ_withFlags (h p : Bool) (r : Refine) : expQ (Config.withFlags h r p) = expQ Config.cfgA :=
  expQ_withoutFlags Config.cfgA h p r

/-- With the default table `exp_q` increases strictly from one multiple of 32 to the next on one whole unit (R108 (d)). -/
theorem expQ_strictMono_on_unit {x y : Int} (nonneg : 0 ≤ x) (lt : x / 32 < y / 32) (unit : y ≤ 65535) :
    expQ Config.cfgA x < expQ Config.cfgA y := by
  obtain ⟨m, rfl⟩ := Int.eq_ofNat_of_zero_le nonneg
  obtain ⟨n, rfl⟩ := Int.eq_ofNat_of_zero_le (show 0 ≤ y by omega)
  have start : InReach 11 ONE := ⟨le_refl _, by decide⟩
  have mPart : m / 65536 = 0 := by omega
  have nPart : n / 65536 = 0 := by omega
  rw [expQ_natCast, expQ_natCast, mPart, nPart, ← lastIndices_eleven]
  exact start.scan_lt_scan le_rfl (by omega)

/-- And it is weakly increasing there (R108 (d)). -/
theorem expQ_mono_on_unit {x y : Int} (nonneg : 0 ≤ x) (le : x ≤ y) (unit : y ≤ 65535) :
    expQ Config.cfgA x ≤ expQ Config.cfgA y := by
  obtain same | lt := (Int.ediv_le_ediv (by norm_num) le : x / 32 ≤ y / 32).eq_or_lt
  · rw [expQ_clear_low_bits _ nonneg, expQ_clear_low_bits _ (nonneg.trans le), same]
  · exact (expQ_strictMono_on_unit nonneg lt unit).le

/-- Settles O37: the scan increases with the number that the bits it looks at spell. -/
theorem expIncreasesOnTheUnitInterval : Obligations.ExpIncreasesOnTheUnitInterval := by
  unfold Obligations.ExpIncreasesOnTheUnitInterval
  intro h p r x y nonneg le unit
  rw [expQ_withFlags]
  exact ⟨expQ_mono_on_unit nonneg le unit, fun lt => expQ_strictMono_on_unit nonneg lt unit⟩

/-- The greatest values of the oracle on the unit and below `LN2_Q16` (R108 (c)). -/
theorem expQ_cfgA_ends : expQ Config.cfgA 65535 = 178060 ∧ expQ Config.cfgA 45426 = 131038 := by decide +kernel

/-- Settles O36: an increasing function is bounded by its values at the ends. -/
theorem oracleValuesStayInRange : Obligations.OracleValuesStayInRange := by
  unfold Obligations.OracleValuesStayInRange
  intro h p r x nonneg unit
  obtain ⟨atUnit, atLn2⟩ := expQ_cfgA_ends
  rw [expQ_withFlags, ← atUnit, ← atLn2]
  exact ⟨(expQ_zero _).ge.trans (expQ_mono_on_unit le_rfl nonneg unit), expQ_mono_on_unit nonneg unit le_rfl,
    fun low => expQ_mono_on_unit nonneg low (by norm_num)⟩

/-! ### The signed exponential -/

/-- From 0 up the signed exponential is the exponential (R104). -/
theorem expsQ_of_nonneg (cfg : Cfg) {x : Int} (nonneg : 0 ≤ x) : expsQ cfg x = expQ cfg x := if_pos nonneg

/-- At and below −10.0 it is 0 (R104). -/
theorem expsQ_of_clamp (cfg : Cfg) {x : Int} (clamp : x ≤ -655360) : expsQ cfg x = 0 := by
  rw [expsQ, if_neg (by omega), dif_pos clamp]

/-- The value of the table path at `r` past the grid point `j` (R104). -/
def tablePath (cfg : Cfg) (j : Fin 80) (r : Nat) : Int :=
  if cfg.interp = true then
    invExpTableRead cfg j.castSucc + mulQ (invExpTableRead cfg j.succ - invExpTableRead cfg j.castSucc) (r * 8 : Nat)
  else invExpTableRead cfg j.castSucc

/-- Between the clamp and 0 the signed exponential is the table path at its magnitude (R104). -/
theorem expsQ_of_magnitude (cfg : Cfg) {x : Int} {j : Fin 80} {r : Nat} (offset : r < 8192) (negative : x < 0)
    (split : -x = (j.val * 8192 + r : Nat)) : expsQ cfg x = tablePath cfg j r := by
  have above : ¬x ≤ -655360 := by omega
  have index : magnitude x / 8192 = j := by rw [magnitude]; omega
  have rest : magnitude x % 8192 = r := by rw [magnitude]; omega
  rw [expsQ, if_neg (by omega), dif_neg above]
  simp only [expNegative, tablePath, index, rest]
  rfl

/-- Settles O38: the three branches of the signed exponential. -/
theorem expsWritesTheTablePathOrExp : Obligations.ExpsWritesTheTablePathOrExp := by
  unfold Obligations.ExpsWritesTheTablePathOrExp
  have run (a : Word) (s : State) : exec (.exps a) s = .next (completeWith (toWord (expsQ s.cfg (operand a))) s) :=
    exec_of_commandResult (i := .exps a) rfl
  refine ⟨fun a s nonneg => ⟨?_, _, run a s⟩, fun a s clamp => ?_, fun a s j r offset negative split => ?_⟩
  · rw [run, exec_exp_of_nonneg nonneg, operand, expsQ_of_nonneg _ nonneg]
  · rw [run, operand, expsQ_of_clamp _ clamp]
    rfl
  · rw [run, operand, expsQ_of_magnitude _ offset negative split]
    rfl

/-- `INV_EXP_TABLE` decreases from `ONE` to 3 (R44). -/
theorem invExpTable_bounds : ∀ j : Fin 80, 3 ≤ invExpTableRead Config.cfgA j.succ ∧
    invExpTableRead Config.cfgA j.succ ≤ invExpTableRead Config.cfgA j.castSucc ∧
    invExpTableRead Config.cfgA j.castSucc ≤ 65536 := by
  decide

/-- A fraction of a difference that is not positive lies between it and 0, rounding included (R105 (b)). -/
theorem mulQ_fraction_bounds {d w : Int} (lo : -65536 ≤ d) (hi : d ≤ 0) (nonneg : 0 ≤ w) (fraction : w ≤ 65536) :
    d ≤ mulQ d w ∧ mulQ d w ≤ 0 := by
  have below : d * w ≤ 0 := mul_nonpos_of_nonpos_of_nonneg hi nonneg
  have above : d * 65536 ≤ d * w := mul_le_mul_of_nonpos_left fraction hi
  rw [mulQ_of_fits (by omega) (by omega)]
  omega

section DefaultTable
variable (h p : Bool) (rf : Refine)

/-- With the default table the table path stays between the two entries, and on the grid and without interpolation it is
the first one (R105 (a) to (c)). -/
theorem tablePath_bounds (j : Fin 80) {r : Nat} (offset : r < 8192) :
    invExpTableRead Config.cfgA j.succ ≤ tablePath (Config.withFlags h rf p) j r ∧
    tablePath (Config.withFlags h rf p) j r ≤ invExpTableRead Config.cfgA j.castSucc ∧
    (r = 0 ∨ p = false → tablePath (Config.withFlags h rf p) j r = invExpTableRead Config.cfgA j.castSucc) := by
  obtain ⟨smallest, decreasing, largest⟩ := invExpTable_bounds j
  cases p with
  | false => exact ⟨decreasing, le_refl _, fun _ => rfl⟩
  | true =>
    have line : tablePath (Config.withFlags h rf true) j r = invExpTableRead Config.cfgA j.castSucc +
      mulQ (invExpTableRead Config.cfgA j.succ - invExpTableRead Config.cfgA j.castSucc) (r * 8 : Nat) := rfl
    rw [line]
    generalize invExpTableRead Config.cfgA j.succ = after at *
    generalize invExpTableRead Config.cfgA j.castSucc = here at *
    obtain ⟨lo, hi⟩ : after - here ≤ mulQ (after - here) (r * 8 : Nat) ∧ mulQ (after - here) (r * 8 : Nat) ≤ 0 :=
      mulQ_fraction_bounds (by omega) (by omega) (by omega) (by omega)
    refine ⟨by omega, by omega, fun exact => ?_⟩
    obtain rfl : r = 0 := exact.resolve_right (by decide)
    rw [Nat.zero_mul, Nat.cast_zero, mulQ_zero, add_zero]

/-- With the default table the signed exponential stays between the entries of the magnitude's grid point (R105). -/
theorem expsQ_bounds {x : Int} (negative : x < 0) {j : Fin 80} (lo : (j.val : Int) * 8192 ≤ -x)
    (hi : -x < ((j.val : Int) + 1) * 8192) :
    invExpTableRead Config.cfgA j.succ ≤ expsQ (Config.withFlags h rf p) x ∧
    expsQ (Config.withFlags h rf p) x ≤ invExpTableRead Config.cfgA j.castSucc ∧
    (-x = (j.val : Int) * 8192 ∨ p = false →
      expsQ (Config.withFlags h rf p) x = invExpTableRead Config.cfgA j.castSucc) := by
  obtain ⟨r, rest⟩ := Int.eq_ofNat_of_zero_le (sub_nonneg.mpr lo)
  have offset : r < 8192 := by omega
  rw [expsQ_of_magnitude _ offset negative (j := j) (by omega)]
  obtain ⟨lower, upper, first⟩ := tablePath_bounds h p rf j offset
  exact ⟨lower, upper, fun exact => first (exact.imp_left fun grid => by omega)⟩

/-- With the default table every result above the clamp is at least 3 (R105 (d)). -/
theorem three_le_expsQ {x : Int} (negative : x < 0) (above : -655360 < x) :
    3 ≤ expsQ (Config.withFlags h rf p) x := by
  obtain ⟨j, index⟩ : ∃ j : Fin 80, (j : Int) = -x / 8192 := ⟨⟨(-x / 8192).toNat, by omega⟩, by simp only; omega⟩
  have entry : invExpTableRead Config.cfgA j.succ ≤ expsQ (Config.withFlags h rf p) x :=
    (expsQ_bounds h p rf negative (by omega) (by omega)).1
  exact (invExpTable_bounds j).1.trans entry

end DefaultTable

/-- Settles O39: the clamp gives 0, and above it the table path stays between entries that are at least 3. -/
theorem expsStaysBetweenTableEntries : Obligations.ExpsStaysBetweenTableEntries := by
  unfold Obligations.ExpsStaysBetweenTableEntries
  intro h p r x negative _
  refine ⟨⟨expsQ_of_clamp _, fun zero => ?_⟩, fun above =>
    ⟨three_le_expsQ h p r negative above, fun j lo hi => expsQ_bounds h p r negative lo hi⟩⟩
  by_contra! above
  have positive := three_le_expsQ h p r negative above
  omega

end Sys2Proof.Machine

/-! ## 42_logarithm.md: the domain reduction (R122), the bisection and its early stop (R123, R124, R127), the Newton
correction (R125), the reconstruction (R126), and LOG, LOG2 and LOG10 (R120, R121, R128 to R130) -/

namespace Sys2Proof.Machine

/-! ### The domain reduction -/

/-- A word that some halvings bring into [1.0, 2.0) is reduced by them (R122). -/
theorem reduceDomain_of_halved {y : Int} {j : Nat} (few : j ≤ 14) (nonneg : 0 ≤ y) (lo : ONE ≤ y / 2 ^ j)
    (hi : y / 2 ^ j ≤ 131071) : reduceDomain y = ((j : Int), y / 2 ^ j) := by
  simp only [ONE] at lo
  have shrinks : y / 2 ^ j ≤ y := Int.ediv_le_self _ nonneg
  have doubled : doubleWhile ONE loopBound y 0 = (y, 0) := doubleWhile_of_le (lo.trans shrinks) _ _
  have halved : halveWhile (2 * ONE) loopBound y 0 = (y / 2 ^ j, 0 + (j : Int)) :=
    halveWhile_eq (few.trans (by decide)) nonneg (by simp only [ONE]; omega) (by simp only [ONE]; omega) 0
  simp only [reduceDomain, doubled, halved, zero_add]

/-- A word that some doublings bring into [1.0, 2.0) is reduced by them (R122). -/
theorem reduceDomain_of_doubled {y : Int} {j : Nat} (few : j ≤ 16) (nonneg : 0 ≤ y) (lo : ONE ≤ y * 2 ^ j)
    (hi : y * 2 ^ j ≤ 131071) : reduceDomain y = (-(j : Int), y * 2 ^ j) := by
  have below : y * 2 ^ j < 2 * ONE := by simp only [ONE]; omega
  have doubled : doubleWhile ONE loopBound y 0 = (y * 2 ^ j, 0 - (j : Int)) :=
    doubleWhile_eq (few.trans (by decide)) nonneg lo below 0
  simp only [reduceDomain, doubled, halveWhile_of_lt below, zero_sub]

/-- The reduction of a positive operand: at most 14 halvings, or at least one and at most 16 doublings (R122). It is the
normalisation of the reciprocal with one halving less or one doubling more. -/
theorem reduceDomain_cases {y : Int} (pos : 0 < y) (fits : y ≤ MAXV) :
    (∃ j : Nat, j ≤ 14 ∧ ONE ≤ y / 2 ^ j ∧ y / 2 ^ j ≤ 131071 ∧ reduceDomain y = ((j : Int), y / 2 ^ j)) ∨
    (∃ j : Nat, 1 ≤ j ∧ j ≤ 16 ∧ ONE ≤ y * 2 ^ j ∧ y * 2 ^ j ≤ 131071 ∧ reduceDomain y = (-(j : Int), y * 2 ^ j)) := by
  obtain ⟨j, few, lo, hi⟩ | ⟨j, few, lo, hi⟩ : (∃ j : Nat, j ≤ 14 ∧ ONE ≤ y / 2 ^ j ∧ y / 2 ^ j ≤ 131071) ∨
      (∃ j : Nat, j ≤ 15 ∧ 32768 ≤ y * 2 ^ j ∧ y * 2 ^ j ≤ 65535) := by
    obtain ⟨_ | j, few, lo, hi, -⟩ | ⟨j, -, few, lo, hi, -⟩ := normalise_cases pos fits
    · exact .inr ⟨0, by omega, by simpa using lo, by simpa using hi⟩
    · have half : y / 2 ^ (j + 1) = y / 2 ^ j / 2 := by rw [pow_succ, Int.ediv_ediv_of_nonneg (by positivity)]
      exact .inl ⟨j, by omega, by simp only [ONE]; omega, by omega⟩
    · exact .inr ⟨j, few, lo, hi⟩
  · exact .inl ⟨j, few, lo, hi, reduceDomain_of_halved few pos.le lo hi⟩
  · have twice : y * 2 ^ (j + 1) = y * 2 ^ j * 2 := by rw [pow_succ, mul_assoc]
    have above : ONE ≤ y * 2 ^ (j + 1) := by simp only [ONE]; omega
    have below : y * 2 ^ (j + 1) ≤ 131071 := by omega
    exact .inr ⟨j + 1, by omega, by omega, above, below, reduceDomain_of_doubled (by omega) pos.le above below⟩

/-- The reduction of a positive operand reaches [1.0, 2.0), with k from −16 to 14 (R122). -/
theorem reduceDomain_bounds {y : Int} (pos : 0 < y) (fits : y ≤ MAXV) :
    (ONE ≤ (reduceDomain y).2 ∧ (reduceDomain y).2 ≤ 131071) ∧
      -16 ≤ (reduceDomain y).1 ∧ (reduceDomain y).1 ≤ 14 := by
  obtain ⟨j, few, lo, hi, reduced⟩ | ⟨j, once, few, lo, hi, reduced⟩ := reduceDomain_cases pos fits
  · rw [reduced]
    exact ⟨⟨lo, hi⟩, by omega, by omega⟩
  · rw [reduced]
    exact ⟨⟨lo, hi⟩, by omega, by omega⟩

/-- `log_q` of a positive word other than `ONE` goes through the stages (R120, R121). -/
theorem logQ_of_pos (cfg : Cfg) {y : Int} (pos : 0 < y) (notOne : y ≠ ONE) : logQ cfg y = logReduced cfg y := by
  rw [logQ, if_neg (by omega), if_neg notOne]

/-- The stages depend on the reduction only (R120). -/
theorem logReduced_of_reduceDomain (cfg : Cfg) {y k m : Int} (reduced : reduceDomain y = (k, m)) :
    logReduced cfg y = reconstruct cfg k (refineMid cfg m (bisect cfg m (bisectInit cfg m))) := by
  rw [logReduced, reduced]

/-- `log_q` of a word from 2.0 up: `ONE` is out of the way, and the stages run on the halved word (R120, R122). -/
theorem logQ_of_halved (cfg : Cfg) {y : Int} {j : Nat} (once : j ≠ 0) (few : j ≤ 14) (nonneg : 0 ≤ y)
    (lo : ONE ≤ y / 2 ^ j) (hi : y / 2 ^ j ≤ 131071) :
    logQ cfg y =
      reconstruct cfg j (refineMid cfg (y / 2 ^ j) (bisect cfg (y / 2 ^ j) (bisectInit cfg (y / 2 ^ j)))) := by
  have above : ONE * 2 ≤ y / 2 ^ j * 2 ^ j :=
    mul_le_mul lo (le_self_pow₀ (by norm_num) once) (by norm_num) (Int.ediv_nonneg nonneg (by positivity))
  have kept : y / 2 ^ j * 2 ^ j ≤ y := Int.ediv_mul_le _ (by positivity)
  simp only [ONE] at above
  rw [logQ_of_pos cfg (by omega) (by simp only [ONE]; omega),
    logReduced_of_reduceDomain cfg (reduceDomain_of_halved few nonneg lo hi)]

/-- `log_q` of a word from 1.0 up depends on the bits its reduction keeps (R122). -/
theorem logQ_of_kept_bits (cfg : Cfg) {y : Int} {j : Nat} (few : j ≤ 14) (nonneg : 0 ≤ y) (lo : ONE ≤ y / 2 ^ j)
    (hi : y / 2 ^ j ≤ 131071) : logQ cfg y = logQ cfg (y / 2 ^ j * 2 ^ j) := by
  obtain rfl | once := eq_or_ne j 0
  · simp
  · have back : y / 2 ^ j * 2 ^ j / 2 ^ j = y / 2 ^ j := Int.mul_ediv_cancel _ (by positivity)
    have keptNonneg : 0 ≤ y / 2 ^ j * 2 ^ j := mul_nonneg (Int.ediv_nonneg nonneg (by positivity)) (by positivity)
    rw [logQ_of_halved cfg once few nonneg lo hi,
      logQ_of_halved cfg once few keptNonneg (by rwa [back]) (by rwa [back]), back]

/-- Settles O44: the operand is halved or doubled; with k = 0 it is halved no times. -/
theorem domainReductionReachesOneToTwo : Obligations.DomainReductionReachesOneToTwo := by
  unfold Obligations.DomainReductionReachesOneToTwo
  refine ⟨fun a pos => ?_, by decide, by decide⟩
  obtain ⟨mRange, kRange⟩ := reduceDomain_bounds pos (operand_fits a).2
  refine ⟨mRange, kRange, ?_⟩
  obtain ⟨j, few, lo, hi, reduced⟩ | ⟨j, once, -, -, -, reduced⟩ := reduceDomain_cases pos (operand_fits a).2
  · rw [reduced]
    refine ⟨fun unshifted => ?_, fun _ => ⟨rfl, fun cfg => logQ_of_kept_bits cfg few pos.le lo hi⟩⟩
    obtain rfl : j = 0 := by simpa using unshifted
    simp
  · rw [reduced]
    exact ⟨fun _ => by simp, fun halved => absurd halved (by simp only; omega)⟩

/-! ### The bisection -/

/-- The biased midpoint without its shift (R123, R124). -/
theorem biasedMidpoint_eq_floor (low high : Int) : biasedMidpoint low high = (low + high + 1) / 2 := by
  rw [biasedMidpoint, shr_eq_floor, pow_one]

/-- The initial interval and midpoint without their shift (R123). -/
theorem bisectInit_eq (cfg : Cfg) (m : Int) : bisectInit cfg m =
    ⟨0, cfg.ln2Q16.toInt, if m < 98304 then m - 65536 else (cfg.ln2Q16.toInt + 1) / 2⟩ := by
  simp only [bisectInit, biasedMidpoint_eq_floor, zero_add, ONE]

section Bisection
variable {cfg : Cfg} {m : Int} {i : Interval}

/-- An oracle value below the target raises the low end (R124). -/
theorem bisectStep_of_below (below : expQ cfg i.mid < m) :
    bisectStep cfg m i = ⟨i.mid, i.high, (i.mid + i.high + 1) / 2⟩ := by
  rw [bisectStep, if_pos below, biasedMidpoint_eq_floor]

/-- An oracle value at or above the target lowers the high end (R124). -/
theorem bisectStep_of_reached (reached : m ≤ expQ cfg i.mid) :
    bisectStep cfg m i = ⟨i.low, i.mid, (i.low + i.mid + 1) / 2⟩ := by
  rw [bisectStep, if_neg (by omega), biasedMidpoint_eq_floor]

/-- An iteration keeps low ≤ mid ≤ high inside the interval, and the new midpoint is biased toward high (R124). -/
theorem bisectStep_narrows (lowMid : i.low ≤ i.mid) (midHigh : i.mid ≤ i.high) :
    i.low ≤ (bisectStep cfg m i).low ∧ (bisectStep cfg m i).low ≤ (bisectStep cfg m i).mid ∧
      (bisectStep cfg m i).mid ≤ (bisectStep cfg m i).high ∧ (bisectStep cfg m i).high ≤ i.high ∧
      (bisectStep cfg m i).mid = ((bisectStep cfg m i).low + (bisectStep cfg m i).high + 1) / 2 := by
  obtain below | reached := lt_or_ge (expQ cfg i.mid) m
  · rw [bisectStep_of_below below]
    refine ⟨lowMid, ?_, ?_, le_rfl, rfl⟩ <;> simp only <;> omega
  · rw [bisectStep_of_reached reached]
    refine ⟨le_rfl, ?_, ?_, midHigh, rfl⟩ <;> simp only <;> omega

/-- The condition of the early stop, with the biased midpoint it brings: the midpoint is the high end `v` (R124). -/
structure Interval.SettledAt (i : Interval) (v : Int) : Prop where
  mid : i.mid = v
  high : i.high = v
  low : i.low ≤ v ∧ v ≤ i.low + 1

/-- Once settled an iteration does not move the midpoint (R124). -/
theorem Interval.SettledAt.step {v : Int} (settled : i.SettledAt v) : (bisectStep cfg m i).SettledAt v := by
  obtain ⟨mid, high, low, short⟩ := settled
  obtain below | reached := lt_or_ge (expQ cfg i.mid) m
  · rw [bisectStep_of_below below]
    exact ⟨by simp only; omega, high, mid.le, by simp only; omega⟩
  · rw [bisectStep_of_reached reached]
    exact ⟨by simp only; omega, mid, low, short⟩

/-- Where the early stop is taken the interval has settled (R124). -/
theorem bisectStep_settled (lowMid : i.low ≤ i.mid) (midHigh : i.mid ≤ i.high)
    (short : (bisectStep cfg m i).high - (bisectStep cfg m i).low ≤ 1) :
    (bisectStep cfg m i).SettledAt (bisectStep cfg m i).mid := by
  obtain ⟨-, low, high, -, biased⟩ := bisectStep_narrows (cfg := cfg) (m := m) lowMid midHigh
  exact ⟨rfl, by omega, low, by omega⟩

/-- Without the early stop the loop is an iterate (R124). -/
theorem bisectLoop_eq_iterate (cfg : Cfg) (m : Int) (n : Nat) (i : Interval) :
    bisectLoop cfg m false n i = (bisectStep cfg m)^[n] i := by
  induction n generalizing i with
  | zero => rfl
  | succ n ih => rw [bisectLoop, Function.iterate_succ_apply, ← ih]; rfl

/-- With the early stop the loop ends with the iterate's midpoint: what it leaves out does not move it (R124). -/
theorem bisectLoop_stopping_mid (lowMid : i.low ≤ i.mid) (midHigh : i.mid ≤ i.high) (n : Nat) :
    (bisectLoop cfg m true n i).mid = ((bisectStep cfg m)^[n] i).mid := by
  induction n generalizing i with
  | zero => rfl
  | succ n ih =>
    rw [bisectLoop, Function.iterate_succ_apply, Bool.true_and]
    obtain short | long := le_or_gt ((bisectStep cfg m i).high - (bisectStep cfg m i).low) 1
    · have settled := bisectStep_settled lowMid midHigh short
      have stays : ((bisectStep cfg m)^[n] (bisectStep cfg m i)).SettledAt (bisectStep cfg m i).mid :=
        Function.Iterate.rec (Interval.SettledAt · (bisectStep cfg m i).mid) settled
          (fun _ => Interval.SettledAt.step) n
      rw [decide_eq_true short, if_pos rfl, stays.mid]
    · obtain ⟨-, low, high, -⟩ := bisectStep_narrows (cfg := cfg) (m := m) lowMid midHigh
      rw [decide_eq_false (by omega)]
      exact ih low high

/-- The bisection from an ordered interval is the midpoint after its rounds, whether it may stop early or not (R124). -/
theorem bisect_eq_iterate_mid (lowMid : i.low ≤ i.mid) (midHigh : i.mid ≤ i.high) :
    bisect cfg m i = ((bisectStep cfg m)^[bisectRounds cfg.refine] i).mid := by
  rw [bisect]
  cases bisectStopsEarly cfg.refine with
  | true => exact bisectLoop_stopping_mid lowMid midHigh _
  | false => rw [bisectLoop_eq_iterate]

/-- An iteration keeps the target between the oracle's values at the ends that have moved (R124). -/
theorem Interval.brackets.step {start : Interval} (brackets : i.brackets cfg m start) :
    (bisectStep cfg m i).brackets cfg m start := by
  obtain below | reached := lt_or_ge (expQ cfg i.mid) m
  · rw [bisectStep_of_below below]
    exact ⟨.inr below, brackets.2⟩
  · rw [bisectStep_of_reached reached]
    exact ⟨brackets.1, .inr reached⟩

end Bisection

/-- Settles O46: with and without the early stop the loop ends with the iterate's midpoint. -/
theorem earlyStopDoesNotChangeTheMidpoint : Obligations.EarlyStopDoesNotChangeTheMidpoint := by
  unfold Obligations.EarlyStopDoesNotChangeTheMidpoint
  intro cfg m n i lowMid midHigh
  rw [bisectLoop_stopping_mid lowMid midHigh, bisectLoop_eq_iterate]

/-- Settles O51: the start, the two branches of an iteration, the loops as iterates, and the bracket, which holds at the
start because no end has moved and which every iteration keeps. -/
theorem bisectionNarrowsAroundTheTarget : Obligations.BisectionNarrowsAroundTheTarget := by
  unfold Obligations.BisectionNarrowsAroundTheTarget
  refine fun cfg m => ⟨bisectInit_eq cfg m, fun _ => bisectStep_of_below, fun _ => bisectStep_of_reached,
    fun i unrefined => ?_, fun i refined lowMid midHigh => ?_, fun start n => ?_⟩
  · rw [bisect, unrefined]
    exact congrArg Interval.mid (bisectLoop_eq_iterate cfg m 20 i)
  · rw [bisect_eq_iterate_mid lowMid midHigh, refined]
    rfl
  · have unmoved : start.brackets cfg m start := ⟨.inl rfl, .inl rfl⟩
    exact Function.Iterate.rec (Interval.brackets · cfg m start) unmoved (fun _ => Interval.brackets.step) n

/-- An iteration keeps the bounds of the interval (R127). -/
theorem Interval.ordered.step {i : Interval} {top : Int} (ordered : i.ordered top) (cfg : Cfg) (m : Int) :
    (bisectStep cfg m i).ordered top := by
  obtain ⟨nonneg, lowMid, midHigh, below⟩ := ordered
  obtain ⟨low, lowMid', midHigh', high, -⟩ := bisectStep_narrows (cfg := cfg) (m := m) lowMid midHigh
  exact ⟨nonneg.trans low, lowMid', midHigh', high.trans below⟩

/-- So does any number of iterations. -/
theorem Interval.ordered.iterate {i : Interval} {top : Int} (ordered : i.ordered top) (cfg : Cfg) (m : Int) (n : Nat) :
    ((bisectStep cfg m)^[n] i).ordered top :=
  Function.Iterate.rec (Interval.ordered · top) ordered (fun _ kept => Interval.ordered.step kept cfg m) n

section DefaultTables
variable (h p : Bool) (r : Refine)

/-- `LN2_Q16` of R46. -/
theorem ln2Q16_withFlags : (Config.withFlags h r p).ln2Q16.toInt = 45426 :=
  (by decide : (45426 : Word).toInt = 45426)

/-- `INV_LN2_Q16` of R45. -/
theorem invLn2Q16_withFlags : (Config.withFlags h r p).invLn2Q16.toInt = 94548 :=
  (by decide : (94548 : Word).toInt = 94548)

/-- `INV_LN10_Q16` of R45. -/
theorem invLn10Q16_withFlags : (Config.withFlags h r p).invLn10Q16.toInt = 28480 :=
  (by decide : (28480 : Word).toInt = 28480)

/-- The bisection starts within [0, `LN2_Q16`] (R123, R127). -/
theorem bisectInit_ordered {m : Int} (lo : ONE ≤ m) : (bisectInit (Config.withFlags h r p) m).ordered 45426 := by
  simp only [ONE] at lo
  rw [bisectInit_eq, ln2Q16_withFlags]
  refine ⟨le_rfl, ?_, ?_, le_rfl⟩ <;> simp only <;> split <;> omega

/-- The oracle's range on [0, `LN2_Q16`] (R108 (c), R127). -/
theorem oracle_bounds {mid : Int} (nonneg : 0 ≤ mid) (le : mid ≤ 45426) :
    65536 ≤ expQ (Config.withFlags h r p) mid ∧ expQ (Config.withFlags h r p) mid ≤ 131038 := by
  obtain ⟨lower, -, upper⟩ := oracleValuesStayInRange h p r mid nonneg (by omega)
  exact ⟨lower, upper le⟩

/-- The final midpoint stays within [0, `LN2_Q16`] (R127). -/
theorem bisect_bounds {m : Int} (lo : ONE ≤ m) :
    0 ≤ bisect (Config.withFlags h r p) m (bisectInit (Config.withFlags h r p) m) ∧
      bisect (Config.withFlags h r p) m (bisectInit (Config.withFlags h r p) m) ≤ 45426 := by
  have start := bisectInit_ordered h p r lo
  have ⟨_, startLow, startHigh, _⟩ := start
  obtain ⟨nonneg, lowMid, midHigh, below⟩ := start.iterate (Config.withFlags h r p) m (bisectRounds r)
  rw [bisect_eq_iterate_mid startLow startHigh]
  exact ⟨nonneg.trans lowMid, midHigh.trans below⟩

end DefaultTables

/-- Settles O45: the start, the step, and the oracle's range at the midpoint. -/
theorem bisectionKeepsItsInterval : Obligations.BisectionKeepsItsInterval := by
  unfold Obligations.BisectionKeepsItsInterval
  refine fun h p r m lo _ => ⟨bisectInit_ordered h p r lo, fun i ordered => ⟨ordered.step _ m, ?_⟩⟩
  obtain ⟨nonneg, lowMid, midHigh, below⟩ := ordered
  obtain ⟨mid, isMid⟩ := Int.eq_ofNat_of_zero_le (nonneg.trans lowMid)
  refine ⟨?_, oracle_bounds h p r (nonneg.trans lowMid) (midHigh.trans below)⟩
  rw [isMid, integerPart_natCast]
  omega

/-! ### The Newton correction -/

/-- Inside its guard the correction adds the quotient (R125). -/
theorem newtonStep_of_guard {cfg : Cfg} (m : Int) {mid : Int} (pos : 0 < expQ cfg mid) (below : expQ cfg mid < 262144) :
    newtonStep cfg m mid = mid + quotQ cfg (m - expQ cfg mid) (expQ cfg mid) :=
  if_pos ⟨pos, below⟩

/-- Outside its guard it changes nothing (R125). -/
theorem newtonStep_of_not_guard {cfg : Cfg} (m : Int) {mid : Int} (outside : expQ cfg mid ≤ 0 ∨ 262144 ≤ expQ cfg mid) :
    newtonStep cfg m mid = mid :=
  if_neg (by simp only [ONE]; omega)

/-- Both quotients as narrowed floors (R89, R87, R80). -/
theorem quotQ_eq_narrowed_floor (cfg : Cfg) (a b : Int) :
    quotQ cfg a b =
      if cfg.useHwDiv = true then s32 ((a * 65536 + b / 2) / b) else s32 ((a * recipNr b + 32768) / 65536) := by
  rw [quotQ, divQ_eq_narrowed_floor, mulQ_eq_narrowed_floor]

/-- Settles O52: the two sides of the guard, and the oracle's range with the default tables. -/
theorem newtonCorrectsWithinItsGuard : Obligations.NewtonCorrectsWithinItsGuard := by
  unfold Obligations.NewtonCorrectsWithinItsGuard
  refine ⟨fun cfg m mid e value => ?_, fun h p r mid nonneg le => ?_⟩
  · subst value
    refine ⟨fun pos below => ?_, newtonStep_of_not_guard m⟩
    rw [newtonStep_of_guard m pos below, quotQ_eq_narrowed_floor]
    rfl
  · obtain ⟨lower, upper⟩ := oracle_bounds h p r nonneg le
    exact ⟨by omega, by omega⟩

/-- The reciprocal of a divisor in [1.0, 2.0) is below 1.0 (R85). -/
theorem recipNr_bounds {b : Int} (lo : 65536 ≤ b) (hi : b ≤ 131071) : 0 ≤ recipNr b ∧ recipNr b ≤ 65535 := by
  have normal : normalise b = (b / 2 ^ 1, ((1 : Nat) : Int)) :=
    normalise_of_halved (by norm_num) (by omega) (by omega) (by omega)
  have above := (newtonRange_rounds (bn := b / 2 ^ 1) (by omega) (by omega) 3).above
  have below : reciprocalRounds (b / 2 ^ 1) 3 ≤ 131070 := reciprocalRounds_le (by omega) (by omega) (by norm_num)
  rw [recipNr_of_normalise (by omega) normal, applyShift_of_nonneg]
  omega

/-- By a divisor in [1.0, 2.0) a dividend from −1.0 to 1.0 has a quotient in the same range, in either variant (R89). -/
theorem quotQ_bounds (cfg : Cfg) {a b : Int} (aLo : -65536 ≤ a) (aHi : a ≤ 65536) (lo : 65536 ≤ b) (hi : b ≤ 131071) :
    -65536 ≤ quotQ cfg a b ∧ quotQ cfg a b ≤ 65536 := by
  rw [quotQ]
  split
  · have lower : -65536 ≤ (a * 65536 + b / 2) / b := Int.le_ediv_of_mul_le (by omega) (by omega)
    have upper : (a * 65536 + b / 2) / b < 65537 := Int.ediv_lt_of_lt_mul (by omega) (by omega)
    rw [divQ_eq_narrowed_floor, s32_of_fits (by simp only [MINV]; omega) (by simp only [MAXV]; omega)]
    omega
  · obtain ⟨nonneg, below⟩ := recipNr_bounds lo hi
    have lower : -65536 * 65536 ≤ a * recipNr b := by nlinarith
    have upper : a * recipNr b ≤ 65536 * 65536 := by nlinarith
    rw [mulQ_of_fits (by omega) (by omega)]
    omega

/-- The refinement as a choice on `REFINE` (R120). -/
theorem refineMid_eq_ite (cfg : Cfg) (m mid : Int) :
    refineMid cfg m mid = if cfg.refine = .newton then newtonStep cfg m mid else mid := by
  unfold refineMid
  cases cfg.refine <;> rfl

/-- The refined midpoint is at most 1.0 away from the midpoint (R125). -/
theorem refineMid_bounds (h p : Bool) (r : Refine) {m mid : Int} (lo : ONE ≤ m) (hi : m ≤ 131071) (nonneg : 0 ≤ mid)
    (le : mid ≤ 45426) : mid - 65536 ≤ refineMid (Config.withFlags h r p) m mid ∧
      refineMid (Config.withFlags h r p) m mid ≤ mid + 65536 := by
  simp only [ONE] at lo
  obtain ⟨oracleLo, oracleHi⟩ := oracle_bounds h p r nonneg le
  rw [refineMid_eq_ite, newtonStep_of_guard m (by omega) (by omega)]
  obtain ⟨lower, upper⟩ := quotQ_bounds (Config.withFlags h r p) (a := m - expQ (Config.withFlags h r p) mid)
    (by omega) (by omega) oracleLo (by omega)
  split <;> omega

/-! ### The reconstruction -/

/-- With the default constants the reconstruction does not wrap (R126). -/
theorem reconstruct_withFlags (h p : Bool) (r : Refine) {k mid : Int} (kLo : -16 ≤ k) (kHi : k ≤ 14)
    (lo : -1000000 ≤ mid) (hi : mid ≤ 1000000) : reconstruct (Config.withFlags h r p) k mid = k * 45426 + mid := by
  have units : mulQ (k * 65536) 45426 = k * 45426 := by
    rw [mulQ_of_fits (by omega) (by omega)]
    omega
  rw [reconstruct, ln2Q16_withFlags, shl_eq_mul, show (2 : Int) ^ 16 = 65536 by norm_num, units]
  exact s32_of_fits (by simp only [MINV]; omega) (by simp only [MAXV]; omega)

/-- Settles O49: `reconstruct_withFlags` on a narrower range. -/
theorem reconstructionIsExact : Obligations.ReconstructionIsExact := by
  unfold Obligations.ReconstructionIsExact
  exact fun h p r k mid kLo kHi lo hi => reconstruct_withFlags h p r kLo kHi (by omega) (by omega)

/-! ### LOG, LOG2 and LOG10 -/

/-- The word LOG writes (R120, R121, R126, R128); the last narrowing does not change it. -/
theorem toWord_logQ (cfg : Cfg) {y k m : Int} (reduced : reduceDomain y = (k, m)) :
    toWord (logQ cfg y) =
      if y ≤ 0 then 0x80000000
      else if y = ONE then 0
      else toWord (mulQ (k * 65536) cfg.ln2Q16.toInt +
        if cfg.refine = .newton then newtonStep cfg m (bisect cfg m (bisectInit cfg m))
        else bisect cfg m (bisectInit cfg m)) := by
  rw [logQ, apply_ite toWord, apply_ite toWord, logReduced_of_reduceDomain cfg reduced, reconstruct, toWord_s32,
    shl_eq_mul, refineMid_eq_ite]
  rfl

/-- Settles O41: LOG completes with that word. -/
theorem logWritesTheReconstruction : Obligations.LogWritesTheReconstruction := by
  unfold Obligations.LogWritesTheReconstruction
  exact fun a s k m reduced => (exec_of_commandResult (i := .log a) rfl).trans
    (congrArg (Host.Outcome.next <| completeWith · s) (toWord_logQ s.cfg reduced))

/-- The word a scaled logarithm writes (R129, R130): the sentinel unscaled, or the rounded product. -/
theorem toWord_scaled_logQ (cfg : Cfg) (y scale : Int) :
    toWord (if y ≤ 0 then MINV else mulQ (logQ cfg y) scale) =
      if y ≤ 0 then 0x80000000 else toWord ((logQ cfg y * scale + 32768) / 65536) := by
  rw [apply_ite toWord, mulQ_eq_narrowed_floor, toWord_s32]
  rfl

/-- Settles O42: LOG2 completes with the word scaled by `INV_LN2_Q16`. -/
theorem log2WritesTheScaledLogarithm : Obligations.Log2WritesTheScaledLogarithm := by
  unfold Obligations.Log2WritesTheScaledLogarithm
  exact fun a s => (exec_of_commandResult (i := .log2 a) rfl).trans
    (congrArg (Host.Outcome.next <| completeWith · s) (toWord_scaled_logQ s.cfg (operand a) s.cfg.invLn2Q16.toInt))

/-- Settles O43: LOG10 completes with the word scaled by `INV_LN10_Q16`. -/
theorem log10WritesTheScaledLogarithm : Obligations.Log10WritesTheScaledLogarithm := by
  unfold Obligations.Log10WritesTheScaledLogarithm
  exact fun a s => (exec_of_commandResult (i := .log10 a) rfl).trans
    (congrArg (Host.Outcome.next <| completeWith · s) (toWord_scaled_logQ s.cfg (operand a) s.cfg.invLn10Q16.toInt))

/-- With the default tables and constants the logarithm of a positive operand is far inside 32 bits: at most 16 units of
ln 2, and a refined midpoint, either way (R128). -/
theorem logQ_bounds (h p : Bool) (r : Refine) {y : Int} (pos : 0 < y) (fits : y ≤ MAXV) :
    -1000000 ≤ logQ (Config.withFlags h r p) y ∧ logQ (Config.withFlags h r p) y ≤ 1000000 := by
  by_cases one : y = ONE
  · rw [logQ, if_neg (by omega), if_pos one]
    norm_num
  · obtain ⟨⟨lo, hi⟩, kLo, kHi⟩ := reduceDomain_bounds pos fits
    obtain ⟨midLo, midHi⟩ := bisect_bounds h p r lo
    obtain ⟨refinedLo, refinedHi⟩ := refineMid_bounds h p r lo hi midLo midHi
    rw [logQ_of_pos _ pos one, logReduced_of_reduceDomain _ Prod.mk.eta.symm,
      reconstruct_withFlags h p r kLo kHi (by omega) (by omega)]
    omega

/-- A product that far inside 32 bits is not the sentinel. -/
theorem mulQ_ne_MINV {x scale : Int} (lo : -1000000 ≤ x) (hi : x ≤ 1000000) (nonneg : 0 ≤ scale)
    (small : scale ≤ 100000) : mulQ x scale ≠ MINV := by
  have lower : -1000000 * 100000 ≤ x * scale := by nlinarith
  have upper : x * scale ≤ 1000000 * 100000 := by nlinarith
  rw [mulQ_of_fits (by omega) (by omega)]
  simp only [MINV]
  omega

/-- Settles O47: the domain tests answer the sentinel, and no result of a positive operand comes near it. -/
theorem logSentinelMeansDomainError : Obligations.LogSentinelMeansDomainError := by
  unfold Obligations.LogSentinelMeansDomainError
  intro h p r a
  obtain domain | pos := le_or_gt (operand a) 0
  · exact ⟨iff_of_true (if_pos domain) domain, iff_of_true (if_pos domain) domain, iff_of_true (if_pos domain) domain⟩
  · have positive : ¬operand a ≤ 0 := by omega
    obtain ⟨lo, hi⟩ := logQ_bounds h p r pos (operand_fits a).2
    rw [log2Q, log10Q, if_neg positive, if_neg positive, invLn2Q16_withFlags, invLn10Q16_withFlags]
    exact ⟨iff_of_false (by simp only [MINV]; omega) positive,
      iff_of_false (mulQ_ne_MINV lo hi (by norm_num) (by norm_num)) positive,
      iff_of_false (mulQ_ne_MINV lo hi (by norm_num) (by norm_num)) positive⟩

/-- A power of two reduces to 1.0 exactly (R122). -/
theorem reduceDomain_two_pow {n : Nat} (le : n ≤ 30) : reduceDomain (2 ^ n) = ((n : Int) - 16, ONE) := by
  obtain large | small := le_total 16 n
  · obtain ⟨j, rfl⟩ := Nat.exists_eq_add_of_le large
    have kept : (2 : Int) ^ (16 + j) / 2 ^ j = ONE := by
      rw [pow_add, Int.mul_ediv_cancel _ (by positivity)]
      norm_num
    rw [reduceDomain_of_halved (j := j) (by omega) (by positivity) kept.ge (by rw [kept]; norm_num), kept]
    simp
  · obtain ⟨j, total⟩ := Nat.exists_eq_add_of_le small
    have doubled : (2 : Int) ^ n * 2 ^ j = ONE := by
      rw [← pow_add, ← total]
      norm_num
    rw [reduceDomain_of_doubled (j := j) (by omega) (by positivity) doubled.ge (by rw [doubled]; norm_num), doubled]
    simp only [Prod.mk.injEq, and_true]
    omega

/-- At 1.0 the bisection does not leave its seed 0, where the oracle's value is 1.0 (R123, R124). -/
theorem bisect_ONE {cfg : Cfg} (nonneg : 0 ≤ cfg.ln2Q16.toInt) : bisect cfg ONE (bisectInit cfg ONE) = 0 := by
  have start : bisectInit cfg ONE = ⟨0, cfg.ln2Q16.toInt, 0⟩ := bisectInit_eq cfg ONE
  have stays (i : Interval) (atZero : i.low = 0 ∧ i.mid = 0) :
      (bisectStep cfg ONE i).low = 0 ∧ (bisectStep cfg ONE i).mid = 0 := by
    obtain ⟨low, mid⟩ := atZero
    rw [bisectStep_of_reached (by rw [mid, expQ_zero]), low, mid]
    exact ⟨rfl, rfl⟩
  rw [start, bisect_eq_iterate_mid le_rfl nonneg]
  have final (n : Nat) : ((bisectStep cfg ONE)^[n] ⟨0, cfg.ln2Q16.toInt, 0⟩).low = 0 ∧
      ((bisectStep cfg ONE)^[n] ⟨0, cfg.ln2Q16.toInt, 0⟩).mid = 0 :=
    Function.Iterate.rec (fun i : Interval => i.low = 0 ∧ i.mid = 0) ⟨rfl, rfl⟩ stays n
  exact (final _).2

/-- At 1.0 the refinement has nothing to correct (R125). -/
theorem refineMid_ONE (cfg : Cfg) : refineMid cfg ONE 0 = 0 := by
  have noQuotient : quotQ cfg 0 ONE = 0 := by
    rw [quotQ, mulQ_comm, mulQ_zero]
    exact ite_eq_right_iff.mpr fun _ => by decide
  rw [refineMid_eq_ite, newtonStep_of_guard ONE (by rw [expQ_zero]; norm_num) (by rw [expQ_zero]; norm_num), expQ_zero,
    sub_self, noQuotient, add_zero, ite_self]

/-- Settles O48: only the reconstruction contributes; `ONE` itself is answered by the domain test. -/
theorem logOfPowersOfTwoIsExact : Obligations.LogOfPowersOfTwoIsExact := by
  unfold Obligations.LogOfPowersOfTwoIsExact
  intro h p r n le
  obtain rfl | other := eq_or_ne n 16
  · rfl
  · have notOne : (2 : Int) ^ n ≠ ONE := fun one => 
      other ((pow_right_inj₀ (by norm_num) (by norm_num)).mp (one.trans (by norm_num : ONE = 2 ^ 16)))
    rw [logQ_of_pos _ (by positivity) notOne, logReduced_of_reduceDomain _ (reduceDomain_two_pow le),
      bisect_ONE (ln2Q16_withFlags h p r ▸ by norm_num), refineMid_ONE,
      reconstruct_withFlags h p r (by omega) (by omega) (by norm_num) (by norm_num), add_zero]

end Sys2Proof.Machine

/-! ## 60_exceptions.md: no exceptions (R140), the in-band sentinels of a domain error (R141, R142), and the idle block
(R153) -/

namespace Sys2Proof.Machine

/-! ### No exceptions -/

/-- No instruction stops: executing one is a COMPLETE (10_state.md R31). -/
theorem exec_answers_next (i : Instr) (s : State) : ∃ t, exec i s = .next t := by
  obtain ⟨w, h⟩ | ⟨c, h⟩ := exec_cases i s
  · exact ⟨_, h⟩
  · exact ⟨_, h⟩

/-- No command stops, not even one with a reserved op code (30_encoding.md R64; log entry 5). -/
theorem completeCommand_answers_next (c : Command) (s : State) : ∃ t, completeCommand c s = .next t := by
  obtain ⟨w, h⟩ | ⟨c', h⟩ := completeCommand_cases c s
  · exact ⟨_, h⟩
  · exact ⟨_, h⟩

/-- Settles O10: instructions and commands COMPLETE, and every edge is answered. -/
theorem nothingFaultsOrTraps : Obligations.NothingFaultsOrTraps := by
  unfold Obligations.NothingFaultsOrTraps
  exact ⟨exec_answers_next, completeCommand_answers_next, step_answers_next⟩

/-! ### The idle block -/

/-- Taking the next edge is no step of the abstract machine (10_state.md R29). -/
@[simp] theorem abstraction_popEdge (s : State) : abstraction (popEdge s) = abstraction s := by
  rw [abstraction, popEdge_busy, popEdge_result, abstraction]

/-- Settles O5: a ready block that is offered nothing keeps the state with the edge taken. -/
theorem idleBlockChangesNothing : Obligations.IdleBlockChangesNothing := by
  unfold Obligations.IdleBlockChangesNothing
  intro s rst invalid idle
  have ready := step_of_ready rst idle
  rw [if_neg (by simp [invalid])] at ready
  exact ⟨ready, abstraction_popEdge s, popEdge_cfg s⟩

/-! ### Domain errors -/

section DomainError
variable (cfg : Cfg) {y : Int} (domain : y ≤ 0)
include domain

/-- The domain test of the reciprocal (40_fixed_point_core.md R88). -/
theorem recipQ_of_nonpos : recipQ cfg y = MAXV := if_pos domain

/-- The domain test of the natural logarithm (42_logarithm.md R121). -/
theorem logQ_of_nonpos : logQ cfg y = MINV := if_pos domain

/-- The sentinel of the logarithm to base 2 is not scaled (R129). -/
theorem log2Q_of_nonpos : log2Q cfg y = MINV := if_pos domain

/-- The sentinel of the logarithm to base 10 is not scaled (R130). -/
theorem log10Q_of_nonpos : log10Q cfg y = MINV := if_pos domain

end DomainError

/-- Settles O40: in a domain error F's value is the sentinel of the operation, whatever the configuration. -/
theorem domainErrorsWriteTheirSentinels : Obligations.DomainErrorsWriteTheirSentinels := by
  unfold Obligations.DomainErrorsWriteTheirSentinels
  intro a s domain
  exact ⟨exec_of_commandResult (i := .recip a) (congrArg some (recipQ_of_nonpos s.cfg domain)),
    exec_of_commandResult (i := .log a) (congrArg some (logQ_of_nonpos s.cfg domain)),
    exec_of_commandResult (i := .log2 a) (congrArg some (log2Q_of_nonpos s.cfg domain)),
    exec_of_commandResult (i := .log10 a) (congrArg some (log10Q_of_nonpos s.cfg domain))⟩

end Sys2Proof.Machine
